-- ==== Sys2Proof/Word.lean ====
section
/-! DEFINITION. The words of the CORE and the fixed sizes of 00_scope.md R6. -/

namespace Sys2Proof

/-- A register cell, a data-memory cell, an ALU operand or result: an 8-bit pattern (R6 `XLEN`, R9). -/
abbrev Byte := BitVec 8

/-- An instruction word (R6 `ILEN`) or an instruction address (R6 `PCLEN`): 16 bits. -/
abbrev Word := BitVec 16

/-- A register index, or any 6-bit operand field `f1`, `f2` (30_encoding.md R91). -/
abbrev RegIdx := BitVec 6

/-- A raw opcode, bits 15..12 (R91). -/
abbrev Opcode := BitVec 4

/-- A data address as an instruction forms it: 11 bits (43_load_store.md R190). -/
abbrev DataAddr := BitVec 11

/-- `NREG` (R6). -/
def numRegs : Nat := 64

/-- `IMEM_WORDS` (R6). -/
def imemWords : Nat := 1024

/-- `DMEM_BYTES` (R6). -/
def dmemBytes : Nat := 2048

/-- `HALT_WORD` (R6): the sentinel, every bit set. -/
def haltWord : Word := 0xFFFF

end Sys2Proof
end

