-- ==== Sys2Proof/Config.lean ====
section
/-! DEFINITION. The parameters of 00_scope.md R7 and the free values. -/

namespace Sys2Proof

/-- The decoded operation (10_state.md R37 `IDEX.tag`). -/
inductive Tag where
  | add | sub | mul | xor | andi | sll | sra | load | store | beqz | jr | movi | unknown
  deriving DecidableEq, Repr, Inhabited

/-- The immediate kind (30_encoding.md R97). -/
inductive ImmKind where
  | none | signed6 | unsigned6
  deriving DecidableEq, Repr, Inhabited

/-- The memory-operation tag of EX/WB (10_state.md R38). -/
inductive MemOp where
  | none | load | store
  deriving DecidableEq, Repr, Inhabited

/-- `OPCODE_MAP` (00_scope.md R7): the opcode number of each operation. -/
structure OpcodeMap where
  add : Opcode
  sub : Opcode
  mul : Opcode
  xor : Opcode
  andi : Opcode
  sll : Opcode
  sra : Opcode
  load : Opcode
  store : Opcode
  beqz : Opcode
  jr : Opcode
  movi : Opcode
  deriving DecidableEq, Repr

/-- The parameters that decoding and the register file take (R7). They are fixed for a run. -/
structure Config where
  /-- `R0_ZERO`. -/
  r0Zero : Bool
  /-- `MOVI_ENABLED`. -/
  moviEnabled : Bool
  /-- `OPCODE_MAP`. -/
  opcodeMap : OpcodeMap
  deriving DecidableEq, Repr

/-- The map this spec takes (30_encoding.md R94; the spec's choice D2, log 14). -/
def OpcodeMap.default : OpcodeMap where
  add := 0
  sub := 1
  mul := 2
  xor := 3
  andi := 4
  sll := 5
  sra := 6
  load := 7
  store := 8
  beqz := 9
  jr := 10
  movi := 11

/-- This spec's values of the parameters (R7). -/
def Config.default : Config where
  r0Zero := false
  moviEnabled := false
  opcodeMap := .default

/-- `MAX_CYCLES` when absent or not positive (R7, 70_reset_and_hazards.md R310). -/
def Config.defaultMaxCycles : Nat := 100

/-- FREE VALUE (log 4). The word and the pc that an invalid IF/ID holds, cycle by cycle (10_state.md R39). -/
opaque Config.staleIfId : Nat → Word × Word

/-- FREE VALUE (log 4). The opc, tag, f1, f2, kind, imm and pc that an invalid ID/EX holds (R39). -/
opaque Config.staleIdEx : Nat → Opcode × Tag × RegIdx × RegIdx × ImmKind × Byte × Word

/-- FREE VALUE (log 4). The tag, result, rd, mem and addr that an invalid EX/WB holds (R39). -/
opaque Config.staleExWb : Nat → Tag × Byte × RegIdx × MemOp × DataAddr

end Sys2Proof
end

