-- ==== Sys2Proof/Machine/Pipeline.lean ====
section
/-! DEFINITION. The three pipeline registers (10_state.md R36 to R40). -/

namespace Sys2Proof

/-- IF/ID (R36). -/
structure IfId where
  valid : Bool
  word : Word
  pc : Word
  deriving DecidableEq, Repr

/-- ID/EX (R37). -/
structure IdEx where
  valid : Bool
  opc : Opcode
  tag : Tag
  f1 : RegIdx
  f2 : RegIdx
  kind : ImmKind
  imm : Byte
  pc : Word
  deriving DecidableEq, Repr

/-- EX/WB (R38). -/
structure ExWb where
  valid : Bool
  tag : Tag
  result : Byte
  rd : RegIdx
  mem : MemOp
  addr : DataAddr
  deriving DecidableEq, Repr

end Sys2Proof
end

