-- ==== Sys2Proof/Syntax.lean ====
section
/-! DEFINITION. The instructions of spec/opcode_table.json with their decoded operands. -/

namespace Sys2Proof

/-- One constructor per row of the opcode table; the four UNKNOWN rows (and opcode 11 while MOVI is
disabled) are the one instruction UNKNOWN of 44_control.md R222, which carries its raw opcode (log 10).
An immediate is the extended byte of 30_encoding.md R98; a data address is the raw 6-bit field (R190). -/
inductive Instr where
  | add (rd rs : RegIdx)
  | sub (rd rs : RegIdx)
  | mul (rd rs : RegIdx)
  | xor (rd rs : RegIdx)
  | andi (rd : RegIdx) (imm : Byte)
  | sll (rd : RegIdx) (k : Byte)
  | sra (rd : RegIdx) (k : Byte)
  | load (rd : RegIdx) (addr : BitVec 6)
  | store (rs : RegIdx) (addr : BitVec 6)
  | beqz (rs : RegIdx) (disp : Byte)
  | jr (rh rl : RegIdx)
  | movi (rd : RegIdx) (imm : Byte)
  | halt
  | unknown (opc : Opcode) (f1 f2 : BitVec 6)
  deriving DecidableEq, Repr

end Sys2Proof
end

