-- ==== Sys2Proof/Decode.lean ====
section
/-! DEFINITION. Decoding and encoding of 16-bit words (30_encoding.md R90 to R102). -/

namespace Sys2Proof

/-- `sext_8` of a 6-bit field (R98 SIGNED6). -/
def sext8 (f : BitVec 6) : Byte := f.signExtend 8

/-- `zext_8` of a 6-bit field (R98 UNSIGNED6). -/
def zext8 (f : BitVec 6) : Byte := f.zeroExtend 8

/-- `opc = word[15:12]` (R91). -/
def opcField (w : Word) : Opcode := w.extractLsb' 12 4

/-- `f1 = word[11:6]` (R91). -/
def f1Field (w : Word) : BitVec 6 := w.extractLsb' 6 6

/-- `f2 = word[5:0]` (R91). -/
def f2Field (w : Word) : BitVec 6 := w.extractLsb' 0 6

/-- The assigned opcodes with their tags: eleven operations, and MOVI only if enabled (R94, R95). -/
def Config.assigned (c : Config) : List (Opcode × Tag) :=
  [(c.opcodeMap.add, .add), (c.opcodeMap.sub, .sub), (c.opcodeMap.mul, .mul), (c.opcodeMap.xor, .xor),
   (c.opcodeMap.andi, .andi), (c.opcodeMap.sll, .sll), (c.opcodeMap.sra, .sra), (c.opcodeMap.load, .load),
   (c.opcodeMap.store, .store), (c.opcodeMap.beqz, .beqz), (c.opcodeMap.jr, .jr)]
  ++ (if c.moviEnabled then [(c.opcodeMap.movi, .movi)] else [])

/-- The first tag a table gives an opcode, UNKNOWN if none does. -/
def lookupTag (opc : Opcode) : List (Opcode × Tag) → Tag
  | [] => .unknown
  | (o, t) :: rest => if o = opc then t else lookupTag opc rest

/-- `OPCODE_MAP⁻¹`, total (R95): an opcode the map does not assign is UNKNOWN. -/
def Config.tagOf (c : Config) (opc : Opcode) : Tag := lookupTag opc c.assigned

/-- `KIND(tag)` (R97). -/
def kindOf : Tag → ImmKind
  | .add => .none
  | .sub => .none
  | .mul => .none
  | .xor => .none
  | .andi => .signed6
  | .sll => .unsigned6
  | .sra => .unsigned6
  | .load => .unsigned6
  | .store => .unsigned6
  | .beqz => .signed6
  | .jr => .none
  | .movi => .signed6
  | .unknown => .none

/-- The extended immediate of a field by its kind (R96, R98). -/
def immOf (k : ImmKind) (f2 : BitVec 6) : Byte :=
  match k with
  | .none => 0
  | .signed6 => sext8 f2
  | .unsigned6 => zext8 f2

/-- `decode(word, pc)` as the ID stage applies it (R96). -/
def decodeIdEx (c : Config) (w pc : Word) : IdEx :=
  { valid := true
    opc := opcField w
    tag := c.tagOf (opcField w)
    f1 := f1Field w
    f2 := f2Field w
    kind := kindOf (c.tagOf (opcField w))
    imm := immOf (kindOf (c.tagOf (opcField w))) (f2Field w)
    pc := pc }

/-- The instruction an ID/EX entry holds: its tag with the operands the EX rules read (70 R292). -/
def IdEx.instr (d : IdEx) : Instr :=
  match d.tag with
  | .add => .add d.f1 d.f2
  | .sub => .sub d.f1 d.f2
  | .mul => .mul d.f1 d.f2
  | .xor => .xor d.f1 d.f2
  | .andi => .andi d.f1 d.imm
  | .sll => .sll d.f1 d.imm
  | .sra => .sra d.f1 d.imm
  | .load => .load d.f1 d.f2
  | .store => .store d.f1 d.f2
  | .beqz => .beqz d.f1 d.imm
  | .jr => .jr d.f1 d.f2
  | .movi => .movi d.f1 d.imm
  | .unknown => .unknown d.opc d.f1 d.f2

/-- Every 16-bit word is exactly one of HALT, a defined instruction, UNKNOWN (R101). -/
def decode (c : Config) (w : Word) : Instr :=
  if w = haltWord then .halt else (decodeIdEx c w 0).instr

/-- `encode(opc, f1, f2) = {opc, f1, f2}` (R102). -/
def encodeFields (opc : Opcode) (f1 f2 : BitVec 6) : Word := opc ++ f1 ++ f2

/-- The 6-bit field of an extended immediate: its low bits (R98). -/
def immField (imm : Byte) : BitVec 6 := imm.truncate 6

/-- The word of an instruction, from the formats R92, R93 and the map of R94. -/
def encode (c : Config) : Instr → Word
  | .add rd rs => encodeFields c.opcodeMap.add rd rs
  | .sub rd rs => encodeFields c.opcodeMap.sub rd rs
  | .mul rd rs => encodeFields c.opcodeMap.mul rd rs
  | .xor rd rs => encodeFields c.opcodeMap.xor rd rs
  | .andi rd imm => encodeFields c.opcodeMap.andi rd (immField imm)
  | .sll rd k => encodeFields c.opcodeMap.sll rd (immField k)
  | .sra rd k => encodeFields c.opcodeMap.sra rd (immField k)
  | .load rd addr => encodeFields c.opcodeMap.load rd addr
  | .store rs addr => encodeFields c.opcodeMap.store rs addr
  | .beqz rs disp => encodeFields c.opcodeMap.beqz rs (immField disp)
  | .jr rh rl => encodeFields c.opcodeMap.jr rh rl
  | .movi rd imm => encodeFields c.opcodeMap.movi rd (immField imm)
  | .halt => haltWord
  | .unknown opc f1 f2 => encodeFields opc f1 f2

/-- The configuration the opcode table is read under: this spec's map with the optional row MOVI
present (the table's row MOVI is "enabled_by MOVI_ENABLED"; log 3). -/
def Config.ofTable : Config := { Config.default with moviEnabled := true }

/-- The word of a table row: `nbits` of it given, the bits above zero. -/
def tableWord (nbits w : Nat) : Word := BitVec.ofNat 16 (w % 2 ^ nbits)

/-- What the decoder reads from a word of the opcode table; every row is one 16-bit word (R90). -/
def decodeTableWord (nbits w : Nat) : Option Instr :=
  if nbits ≤ 16 then some (decode Config.ofTable (tableWord nbits w)) else none

end Sys2Proof
end

