-- ==== Sys2Proof/Machine/State.lean ====
section
/-! DEFINITION. The state of the CORE (10_state.md R43), its reset values (R45), faults and refusals. -/

namespace Sys2Proof.Machine

/-- The engine state (R35). -/
inductive Engine where
  | running | draining | halted
  deriving DecidableEq, Repr

/-- A diagnostic: its code with the info of 60_exceptions.md R242. -/
inductive Diag where
  /-- Code 1, `IMEM_FETCH_OOB`: the pc fetched from. -/
  | imemFetchOob (pc : Word)
  /-- Code 2, `UNKNOWN_OPCODE`: the word's address and the word. -/
  | unknownOpcode (pc word : Word)
  /-- Code 3, `BRANCH_TARGET_OOB`: the branch's address and the integer target. -/
  | branchTargetOob (pc : Word) (target : Int)
  /-- Code 4, `REG_INDEX_OOB`: the index. -/
  | regIndexOob (index : Nat)
  /-- Code 5, `DMEM_ADDR_OOB`: the address. -/
  | dmemAddrOob (addr : Nat)
  /-- Code 6, `IMEM_ADDR_OOB`: the address. -/
  | imemAddrOob (addr : Nat)
  /-- Code 7, `FLAG_ID_INVALID`: the flag id. -/
  | flagIdInvalid (id : Nat)
  deriving DecidableEq, Repr

/-- When a diagnostic was raised: in a cycle, or by the host between cycles (95_test_vectors.md H-1). -/
inductive Stamp where
  | cycle (n : Nat)
  | host
  deriving DecidableEq, Repr

/-- One entry of DIAG, `(cycle, code, info)` (R241). -/
structure Event where
  stamp : Stamp
  diag : Diag
  deriving DecidableEq, Repr

/-- Everything the spec gives the machine (R43), with the configuration (00_scope.md R7), the inputs
and count of its surroundings (70_reset_and_hazards.md R302, R310) and the flush signal of one cycle. -/
structure State where
  /-- The parameters of R7; no step changes them (log 2). -/
  cfg : Config
  /-- RF[0..63] (R20). -/
  rf : Vector Byte 64
  /-- SREG (R26). -/
  sreg : Byte
  /-- The address the IF stage fetches in the coming cycle (R30). -/
  pc : Word
  /-- RUNNING, DRAINING or HALTED (R35). -/
  engine : Engine
  /-- IF/ID (R36). -/
  ifid : IfId
  /-- ID/EX (R37). -/
  idex : IdEx
  /-- EX/WB (R38). -/
  exwb : ExWb
  /-- IMEM (20_memory.md R61): listed words, rising addresses, no word 0x0000 listed (log 11). -/
  imem : List (Nat × Word)
  /-- DMEM (R62): listed bytes, rising addresses, no byte 0x00 listed (log 11). -/
  dmem : List Host.Cell
  /-- DIAG (R42), oldest first. -/
  diag : List Event
  /-- `stall_in` of the coming cycles, head first, false past the end (R302; log 6). -/
  stallIn : List Bool
  /-- The controller's cycle count: steps taken (R310; log 1). -/
  cycle : Nat
  /-- `flush_taken` with `target`, inside one cycle (R290, R292; log 5). -/
  flushReq : Option Word
  deriving DecidableEq, Repr

/-- No rule of the spec stops the machine with a fault: every error is a diagnostic (60_exceptions.md
R240, R246). The type is empty, so that no step can answer one (safe; log 18). -/
inductive Fault where
  deriving DecidableEq, Repr

/-- Why a step has no meaning. -/
inductive Refusal where
  /-- Raised only by an arm of `exec` whose instruction has no meaning yet; no arm is left (safe). -/
  | notModelled (mnemonic : String)
  deriving DecidableEq, Repr

/-- An invalid, zeroed IF/ID (R40). -/
def zeroIfId : IfId := { valid := false, word := 0, pc := 0 }

/-- An invalid, zeroed ID/EX; the tag is the decode of opcode 0 (R40). -/
def zeroIdEx (c : Config) : IdEx :=
  { valid := false, opc := 0, tag := c.tagOf 0, f1 := 0, f2 := 0, kind := .none, imm := 0, pc := 0 }

/-- An invalid, zeroed EX/WB; the tag is the decode of opcode 0 (R40). -/
def zeroExWb (c : Config) : ExWb :=
  { valid := false, tag := c.tagOf 0, result := 0, rd := 0, mem := .none, addr := 0 }

/-- The reset state (R45, 70_reset_and_hazards.md R280) with the launch values the host chose:
`REG_INIT`, the loaded IMEM and DMEM, and the `stall_in` of the run. -/
def State.resetWith (c : Config) (regs : Vector Byte 64) (imem : List (Nat × Word)) (dmem : List Host.Cell)
    (stalls : List Bool) : State :=
  { cfg := c
    rf := regs
    sreg := 0x00
    pc := 0
    engine := .running
    ifid := zeroIfId
    idex := zeroIdEx c
    exwb := zeroExWb c
    imem := imem
    dmem := dmem
    diag := []
    stallIn := stalls
    cycle := 0
    flushReq := none }

/-- The machine right after reset with this spec's parameters: `REG_INIT` and `DMEM_INIT` all zero,
no stall, nothing loaded (R45; log 3, log 7). -/
def State.reset : State := State.resetWith Config.default (Vector.replicate 64 0) [] [] []

end Sys2Proof.Machine
end

