-- ==== Sys2Proof/Machine/Ops.lean ====
section
/-! DEFINITION. The named operations on registers, memories, the diagnostic log and the pipeline. -/

namespace Sys2Proof.Machine

/-! ### Outcomes -/

/-- Go on with the next state; a stop stays a stop. -/
def andThen (o : Host.Outcome State Fault Refusal) (f : State → Host.Outcome State Fault Refusal) :
    Host.Outcome State Fault Refusal :=
  match o with
  | .next s => f s
  | .fault r => .fault r
  | .refused r => .refused r

/-! ### State updates -/

/-- Replace the register file. -/
def State.withRf (s : State) (rf : Vector Byte 64) : State := { s with rf := rf }

/-- Replace SREG. -/
def State.withSreg (s : State) (b : Byte) : State := { s with sreg := b }

/-- Replace the program counter. -/
def State.withPc (s : State) (a : Word) : State := { s with pc := a }

/-- Replace the engine state. -/
def State.withEngine (s : State) (e : Engine) : State := { s with engine := e }

/-- Replace IF/ID. -/
def State.withIfId (s : State) (r : IfId) : State := { s with ifid := r }

/-- Replace ID/EX. -/
def State.withIdEx (s : State) (r : IdEx) : State := { s with idex := r }

/-- Replace EX/WB. -/
def State.withExWb (s : State) (r : ExWb) : State := { s with exwb := r }

/-- Replace IMEM. -/
def State.withImem (s : State) (m : List (Nat × Word)) : State := { s with imem := m }

/-- Replace DMEM. -/
def State.withDmem (s : State) (m : List Host.Cell) : State := { s with dmem := m }

/-- Replace the stall inputs to come. -/
def State.withStallIn (s : State) (l : List Bool) : State := { s with stallIn := l }

/-- Replace the cycle count. -/
def State.withCycle (s : State) (n : Nat) : State := { s with cycle := n }

/-- Replace the flush signal. -/
def State.withFlushReq (s : State) (t : Option Word) : State := { s with flushReq := t }

/-- Replace the configuration. -/
def State.withCfg (s : State) (c : Config) : State := { s with cfg := c }

/-- Append one event to DIAG; nothing else changes (60_exceptions.md R241). -/
def State.log (s : State) (e : Event) : State := { s with diag := s.diag ++ [e] }

/-- `raise Diag` by a stage of the current cycle (R241). -/
def State.raise (s : State) (d : Diag) : State := s.log { stamp := .cycle s.cycle, diag := d }

/-! ### Registers -/

/-- `x[i]` (10_state.md R21). -/
def State.reg (s : State) (i : RegIdx) : Byte :=
  if s.cfg.r0Zero && decide (i = 0) then 0x00 else s.rf[i.toNat]

/-- `x[i] <- v` (R22). -/
def State.setReg (s : State) (i : RegIdx) (v : Byte) : State :=
  s.withRf (if s.cfg.r0Zero && decide (i = 0) then s.rf else s.rf.set i.toNat v)

/-! ### Memories: lists of listed cells, an unlisted address reads as zero (20_memory.md R68; log 11) -/

/-- What an unlisted address reads as: 0x0000 in IMEM, 0x00 in DMEM (R68). -/
def unlisted (n : Nat) : BitVec n := 0

/-- Read a cell. -/
def readCell {n : Nat} (m : List (Nat × BitVec n)) (a : Nat) : BitVec n :=
  match m with
  | [] => unlisted n
  | (k, v) :: rest => if k = a then v else readCell rest a

/-- List a cell before a list of higher addresses, unless it is what an unlisted address reads as. -/
def consCell {n : Nat} (a : Nat) (v : BitVec n) (m : List (Nat × BitVec n)) : List (Nat × BitVec n) :=
  if v = unlisted n then m else (a, v) :: m

/-- Write a cell, keeping the list in its canonical form. -/
def writeCell {n : Nat} (m : List (Nat × BitVec n)) (a : Nat) (v : BitVec n) : List (Nat × BitVec n) :=
  match m with
  | [] => consCell a v []
  | (k, x) :: rest =>
    if a < k then consCell a v ((k, x) :: rest)
    else if k = a then consCell a v rest
    else (k, x) :: writeCell rest a v

/-- The canonical form below `size`: addresses strictly rising and below `size`, no listed cell equal
to what an unlisted address reads as. -/
def Memory.wf {n : Nat} (size : Nat) (m : List (Nat × BitVec n)) : Bool :=
  match m with
  | [] => true
  | (k, v) :: rest =>
    decide (k < size) && decide (v ≠ unlisted n) && rest.all (fun c => decide (k < c.1)) && Memory.wf size rest

/-- `MemRead(a, 1)` with its bounds check: the byte, and the state with any diagnostic (R66). -/
def memRead (t : Stamp) (a : Nat) (s : State) : Byte × State :=
  if a < dmemBytes then (readCell s.dmem a, s)
  else (0x00, s.log { stamp := t, diag := .dmemAddrOob a })

/-- `MemWrite(a, 1, v)` with its bounds check (R67). -/
def memWrite (t : Stamp) (a : Nat) (v : Byte) (s : State) : State :=
  if a < dmemBytes then s.withDmem (writeCell s.dmem a v)
  else s.log { stamp := t, diag := .dmemAddrOob a }

/-- `IFetch(a)`: the word, and the state with any diagnostic (R64). -/
def iFetch (a : Word) (s : State) : Word × State :=
  if a.toNat < imemWords then (readCell s.imem a.toNat, s)
  else (haltWord, s.raise (.imemFetchOob a))

/-! ### Invalid pipeline registers: the contents are free (10_state.md R39; log 4) -/

/-- An invalid IF/ID of cycle `n`. -/
def bubbleIfId (n : Nat) : IfId :=
  match Config.staleIfId n with
  | (w, p) => { valid := false, word := w, pc := p }

/-- An invalid ID/EX of cycle `n`. -/
def bubbleIdEx (n : Nat) : IdEx :=
  match Config.staleIdEx n with
  | (o, t, a, b, k, i, p) => { valid := false, opc := o, tag := t, f1 := a, f2 := b, kind := k, imm := i, pc := p }

/-- An invalid EX/WB of cycle `n`. -/
def bubbleExWb (n : Nat) : ExWb :=
  match Config.staleExWb n with
  | (t, r, d, m, a) => { valid := false, tag := t, result := r, rd := d, mem := m, addr := a }

/-! ### The hazard controller (70_reset_and_hazards.md R292, R296, R297) -/

/-- `flush(target)`: EX asks for a redirect (R292). -/
def State.requestFlush (s : State) (target : Word) : State := s.withFlushReq (some target)

/-- A flush returns DRAINING to RUNNING (R297). -/
def afterFlush (e : Engine) : Engine :=
  match e with
  | .running => .running
  | .draining => .running
  | .halted => .halted

/-- Apply the flush EX asked for: IF/ID and ID/EX become invalid, the pc becomes the target, draining
is cancelled (R296, R297); without a request nothing changes. The signal ends with the cycle. -/
def applyFlush (s : State) : State :=
  match s.flushReq with
  | none => s
  | some target =>
    { s with
      ifid := bubbleIfId s.cycle
      idex := bubbleIdEx s.cycle
      pc := target
      engine := afterFlush s.engine
      flushReq := none }

end Sys2Proof.Machine
end

