-- ==== Sys2Proof/Machine/Operands.lean ====
section
/-! DEFINITION. Operand forms: the data address and the two kinds of branch target. -/

namespace Sys2Proof.Machine

/-- `ea := zext_11(f2)` (43_load_store.md R190): the one addressing mode. -/
def dataAddr (f2 : BitVec 6) : DataAddr := f2.zeroExtend 11

/-- `u(pc) + 1 + s(imm)`, an integer (44_control.md R210). -/
def branchTarget (pc : Word) (disp : Byte) : Int := (pc.toNat : Int) + 1 + disp.toInt

/-- `u({x[h], x[l]})`, 0..65535 (44_control.md R216; log 15). -/
def jumpTarget (h l : Byte) : Int := ((h ++ l : Word).toNat : Int)

/-- Redirect to a target inside instruction memory; outside it a diagnostic and no redirect (R212). -/
def redirect (target : Int) (s : State) : State :=
  if 0 ≤ target ∧ target < imemWords then s.requestFlush (BitVec.ofInt 16 target)
  else s.raise (.branchTargetOob s.idex.pc target)

/-- The EX/WB entry of an instruction that writes no register and touches no memory (R210, R214, R222). -/
def idleExWb (tag : Tag) (rd : RegIdx) : ExWb :=
  { valid := true, tag := tag, result := 0x00, rd := rd, mem := .none, addr := 0 }

end Sys2Proof.Machine
end

