-- ==== Sys2Proof/Machine/Control.lean ====
section
/-! DEFINITION. Control transfer, the HALT sentinel and UNKNOWN (44_control.md). -/

namespace Sys2Proof.Machine

/-- BEQZ: the branch's own address is `IDEX.pc` (R210, R212). -/
def execBeqz (rs : RegIdx) (disp : Byte) (s : State) : Host.Outcome State Fault Refusal :=
  let taken := if s.reg rs = 0x00 then redirect (branchTarget s.idex.pc disp) s else s
  .next (taken.withExWb (idleExWb .beqz rs))

/-- JR (R214, R216). -/
def execJr (rh rl : RegIdx) (s : State) : Host.Outcome State Fault Refusal :=
  .next ((redirect (jumpTarget (s.reg rh) (s.reg rl)) s).withExWb (idleExWb .jr rh))

/-- HALT is never in EX: this is what the IF stage does on reading the sentinel. The word does not
enter IF/ID, the pc stays, the engine drains (R220, 70_reset_and_hazards.md R293; log 10). -/
def execHalt (s : State) : Host.Outcome State Fault Refusal :=
  .next ((s.withEngine .draining).withIfId (bubbleIfId s.cycle))

/-- UNKNOWN: one diagnostic, an idle EX/WB entry, nothing else (R222). -/
def execUnknown (opc : Opcode) (f1 f2 : BitVec 6) (s : State) : Host.Outcome State Fault Refusal :=
  .next ((s.raise (.unknownOpcode s.idex.pc (encodeFields opc f1 f2))).withExWb (idleExWb .unknown f1))

end Sys2Proof.Machine
end

