-- ==== Sys2Proof/Machine/LoadStore.lean ====
section
/-! DEFINITION. EX of the memory family (43_load_store.md). -/

namespace Sys2Proof.Machine

/-- LOAD (R192). -/
def execLoad (rd : RegIdx) (addr : BitVec 6) (s : State) : Host.Outcome State Fault Refusal :=
  let ea := dataAddr addr
  let rs := memRead (.cycle s.cycle) ea.toNat s
  .next (rs.2.withExWb { valid := true, tag := .load, result := rs.1, rd := rd, mem := .load, addr := ea })

/-- STORE: memory is written now, in EX (R194, 20_memory.md R78). -/
def execStore (rs : RegIdx) (addr : BitVec 6) (s : State) : Host.Outcome State Fault Refusal :=
  let ea := dataAddr addr
  .next ((memWrite (.cycle s.cycle) ea.toNat (s.reg rs) s).withExWb
    { valid := true, tag := .store, result := s.reg rs, rd := rs, mem := .store, addr := ea })

end Sys2Proof.Machine
end

