-- ==== Sys2Proof/Machine/Flags.lean ====
section
/-! DEFINITION. SREG: its fields (10_state.md R26) and SetFlags (40_alu.md R127). -/

namespace Sys2Proof.Machine

/-- `SREG.C` (R26). -/
def flagC (sreg : Byte) : Bool := sreg.getLsbD 4

/-- `SREG.V`. -/
def flagV (sreg : Byte) : Bool := sreg.getLsbD 3

/-- `SREG.N`. -/
def flagN (sreg : Byte) : Bool := sreg.getLsbD 2

/-- `SREG.S`. -/
def flagS (sreg : Byte) : Bool := sreg.getLsbD 1

/-- `SREG.Z`. -/
def flagZ (sreg : Byte) : Bool := sreg.getLsbD 0

/-- `SREG[7:5]`, reserved. -/
def sregReserved (sreg : Byte) : BitVec 3 := sreg.extractLsb' 5 3

/-- SREG from its fields. -/
def packSreg (reserved : BitVec 3) (c v n s z : Bool) : Byte :=
  reserved ++ BitVec.ofBool c ++ BitVec.ofBool v ++ BitVec.ofBool n ++ BitVec.ofBool s ++ BitVec.ofBool z

/-- `SetFlags(r, c, v)` on a value of SREG: bits 7..5 stay (R127). -/
def setFlags (sreg r : Byte) (c v : Bool) : Byte :=
  packSreg (sregReserved sreg) c v r.msb (r.msb ^^ v) (decide (r = 0x00))

end Sys2Proof.Machine
end

