-- ==== Sys2Proof/Machine/Alu.lean ====
section
/-! DEFINITION. The ALU (40_alu.md R120 to R126) and the EX work all ALU-class instructions share. -/

namespace Sys2Proof.Machine

/-- `aop` (R120). -/
inductive AluOp where
  | add | sub | mul | and | xor | sll | sra
  deriving DecidableEq, Repr

/-- What the ALU answers: the result, carry and overflow (R120). -/
structure AluOut where
  r : Byte
  c : Bool
  v : Bool
  deriving DecidableEq, Repr

/-- add (R121). -/
def aluAdd (a b : Byte) : AluOut :=
  let t := a.toNat + b.toNat
  let r := BitVec.ofNat 8 (t % 256)
  { r := r, c := decide (t > 255), v := (a.msb == b.msb) && (r.msb != a.msb) }

/-- sub: carry is 0 (R122). -/
def aluSub (a b : Byte) : AluOut :=
  let r := BitVec.ofInt 8 (((a.toNat : Int) - b.toNat) % 256)
  { r := r, c := false, v := (a.msb != b.msb) && (r.msb == b.msb) }

/-- mul: the low byte of the product (R123). -/
def aluMul (a b : Byte) : AluOut :=
  { r := BitVec.ofNat 8 ((a.toNat * b.toNat) % 256), c := false, v := false }

/-- AND (R124). -/
def aluAnd (a b : Byte) : AluOut := { r := a &&& b, c := false, v := false }

/-- XOR (R124). -/
def aluXor (a b : Byte) : AluOut := { r := a ^^^ b, c := false, v := false }

/-- SLL by k, 0 from 8 on (R125). -/
def aluSll (a : Byte) (k : Nat) : AluOut :=
  { r := if k ≥ 8 then 0x00 else BitVec.ofNat 8 ((a.toNat * 2 ^ k) % 256), c := false, v := false }

/-- SRA by k, sign fill from 8 on, rounding toward minus infinity (R126). -/
def aluSra (a : Byte) (k : Nat) : AluOut :=
  { r := if k ≥ 8 then (if a.msb then 0xFF else 0x00) else BitVec.ofInt 8 (a.toInt / 2 ^ k)
    c := false
    v := false }

/-- The ALU: a pure function of the operation and its two operands (R120). -/
def alu (op : AluOp) (a b : Byte) : AluOut :=
  match op with
  | .add => aluAdd a b
  | .sub => aluSub a b
  | .mul => aluMul a b
  | .and => aluAnd a b
  | .xor => aluXor a b
  | .sll => aluSll a b.toNat
  | .sra => aluSra a b.toNat

/-- EX of an ALU-class instruction: the flags are written at once (R128), the result goes to EX/WB. -/
def aluToWb (tag : Tag) (op : AluOp) (rd : RegIdx) (b : Byte) (s : State) : State :=
  let o := alu op (s.reg rd) b
  (s.withSreg (setFlags s.sreg o.r o.c o.v)).withExWb
    { valid := true, tag := tag, result := o.r, rd := rd, mem := .none, addr := 0 }

end Sys2Proof.Machine
end

