-- ==== Sys2Proof/Machine/RegImm.lean ====
section
/-! DEFINITION. EX of the register-immediate family (42_register_immediate.md). -/

namespace Sys2Proof.Machine

/-- ANDI (R170). -/
def execAndi (rd : RegIdx) (imm : Byte) (s : State) : Host.Outcome State Fault Refusal :=
  .next (aluToWb .andi .and rd imm s)

/-- SLL (R172). -/
def execSll (rd : RegIdx) (k : Byte) (s : State) : Host.Outcome State Fault Refusal :=
  .next (aluToWb .sll .sll rd k s)

/-- SRA (R174). -/
def execSra (rd : RegIdx) (k : Byte) (s : State) : Host.Outcome State Fault Refusal :=
  .next (aluToWb .sra .sra rd k s)

/-- MOVI: not ALU-class, no flag written (R178). -/
def execMovi (rd : RegIdx) (imm : Byte) (s : State) : Host.Outcome State Fault Refusal :=
  .next (s.withExWb { valid := true, tag := .movi, result := imm, rd := rd, mem := .none, addr := 0 })

end Sys2Proof.Machine
end

