-- ==== Sys2Proof/Machine/RegReg.lean ====
section
/-! DEFINITION. EX of the register-register family (41_register_register.md). -/

namespace Sys2Proof.Machine

/-- ADD (R150). -/
def execAdd (rd rs : RegIdx) (s : State) : Host.Outcome State Fault Refusal :=
  .next (aluToWb .add .add rd (s.reg rs) s)

/-- SUB (R152). -/
def execSub (rd rs : RegIdx) (s : State) : Host.Outcome State Fault Refusal :=
  .next (aluToWb .sub .sub rd (s.reg rs) s)

/-- MUL (R154). -/
def execMul (rd rs : RegIdx) (s : State) : Host.Outcome State Fault Refusal :=
  .next (aluToWb .mul .mul rd (s.reg rs) s)

/-- XOR (R156). -/
def execXor (rd rs : RegIdx) (s : State) : Host.Outcome State Fault Refusal :=
  .next (aluToWb .xor .xor rd (s.reg rs) s)

end Sys2Proof.Machine
end

