-- ==== Sys2Proof/Machine/Dispatch.lean ====
section
/-! DEFINITION. `exec`: the EX rule of each instruction (70_reset_and_hazards.md R292), and for HALT
the IF stage's action. -/

namespace Sys2Proof.Machine

def exec (i : Instr) (s : State) : Host.Outcome State Fault Refusal :=
  match i with
  | .add rd rs => Sys2Proof.Machine.execAdd rd rs s
  | .sub rd rs => Sys2Proof.Machine.execSub rd rs s
  | .mul rd rs => Sys2Proof.Machine.execMul rd rs s
  | .xor rd rs => Sys2Proof.Machine.execXor rd rs s
  | .andi rd imm => Sys2Proof.Machine.execAndi rd imm s
  | .sll rd k => Sys2Proof.Machine.execSll rd k s
  | .sra rd k => Sys2Proof.Machine.execSra rd k s
  | .load rd addr => Sys2Proof.Machine.execLoad rd addr s
  | .store rs addr => Sys2Proof.Machine.execStore rs addr s
  | .beqz rs disp => Sys2Proof.Machine.execBeqz rs disp s
  | .jr rh rl => Sys2Proof.Machine.execJr rh rl s
  | .movi rd imm => Sys2Proof.Machine.execMovi rd imm s
  | .halt => Sys2Proof.Machine.execHalt s
  | .unknown opc f1 f2 => Sys2Proof.Machine.execUnknown opc f1 f2 s

end Sys2Proof.Machine
end

