-- ==== Sys2Proof/Machine/Stages.lean ====
section
/-! DEFINITION. The stages of one cycle, evaluated in place in the order WB, EX, ID, IF, hazard
controller, halt detection (70_reset_and_hazards.md R290 to R302). Each stage overwrites only the
register behind it, after the stage that reads that register has run (R295). -/

namespace Sys2Proof.Machine

/-- The tags whose result WB writes to the register file (R291, 10_state.md R38). -/
def writesReg : Tag → Bool
  | .add => true
  | .sub => true
  | .mul => true
  | .xor => true
  | .andi => true
  | .sll => true
  | .sra => true
  | .load => true
  | .store => false
  | .beqz => false
  | .jr => false
  | .movi => true
  | .unknown => false

/-- The cycle begins: the controller counts it (R310), no flush is taken yet (R290). -/
def beginCycle (s : State) : State := (s.withCycle (s.cycle + 1)).withFlushReq none

/-- WB (R291). -/
def writeBack (s : State) : State :=
  s.withRf (if s.exwb.valid && writesReg s.exwb.tag then (s.setReg s.exwb.rd s.exwb.result).rf else s.rf)

/-- EX (R292): a valid ID/EX runs its instruction, an invalid one leaves a bubble in EX/WB. -/
def executeStage (s : State) : Host.Outcome State Fault Refusal :=
  if s.idex.valid then exec s.idex.instr s else .next (s.withExWb (bubbleExWb s.cycle))

/-- ID (R294). -/
def decodeStage (s : State) : State :=
  s.withIdEx (if s.ifid.valid then decodeIdEx s.cfg s.ifid.word s.ifid.pc else bubbleIdEx s.cycle)

/-- `stall_in` of this cycle (R302). -/
def stalled (s : State) : Bool := s.stallIn.headD false

/-- IF with the pc update of a successful fetch (R293, 10_state.md R31): the HALT sentinel is the one
instruction that acts here. -/
def fetchStage (s : State) : Host.Outcome State Fault Refusal :=
  if s.engine ≠ .running ∨ stalled s then .next (s.withIfId (bubbleIfId s.cycle))
  else
    let f := iFetch s.pc s
    if f.1 = haltWord then exec .halt f.2
    else .next ((f.2.withIfId { valid := true, word := f.1, pc := s.pc }).withPc (s.pc + 1))

/-- Halt detection (R300). -/
def detectHalt (s : State) : State :=
  s.withEngine
    (if s.engine = .draining ∧ s.ifid.valid = false ∧ s.idex.valid = false ∧ s.exwb.valid = false then .halted
     else s.engine)

/-- The end of the cycle: flush, halt detection, and this cycle's stall input is used up (R290). -/
def endCycle (s : State) : State :=
  let t := detectHalt (applyFlush s)
  t.withStallIn t.stallIn.tail

/-- One cycle of an engine that is not HALTED. -/
def cycleStages (s : State) : Host.Outcome State Fault Refusal :=
  andThen (executeStage (writeBack (beginCycle s))) fun t =>
    andThen (fetchStage (decodeStage t)) fun u => .next (endCycle u)

/-! ### Placing one instruction (log 3) -/

/-- The configuration that runs a table row: a word of the optional row MOVI needs `MOVI_ENABLED`. -/
def enableFor (c : Config) (w : Word) : Config :=
  if c.tagOf (opcField w) = .unknown ∧ opcField w = c.opcodeMap.movi then { c with moviEnabled := true } else c

/-- The word stands in IMEM at the pc, if that address exists. -/
def loadAtPc (w : Word) (s : State) : State :=
  if s.pc.toNat < imemWords then s.withImem (writeCell s.imem s.pc.toNat w) else s

/-- The sentinel acts in IF: nothing is in flight before it, and this cycle's fetch is not withheld. -/
def placeHalt (s : State) : State :=
  let t := ((s.withEngine .running).withIfId (bubbleIfId s.cycle)).withIdEx (bubbleIdEx s.cycle)
  if stalled t then t.withStallIn (false :: t.stallIn.tail) else t

/-- Every other word acts in EX: it has been fetched from the pc and decoded, and no other word since. -/
def placeDecoded (w : Word) (s : State) : State :=
  let c := enableFor s.cfg w
  ((((s.withCfg c).withEngine .running).withIfId (bubbleIfId s.cycle)).withIdEx (decodeIdEx c w s.pc)).withPc
    (if s.pc.toNat < imemWords then s.pc + 1 else s.pc)

/-- The word in IMEM at the pc, and the pipeline where the very next step runs it. -/
def placeWord (w : Word) (s : State) : State :=
  if w = haltWord then placeHalt (loadAtPc w s) else placeDecoded w (loadAtPc w s)

end Sys2Proof.Machine
end

