-- ==== Sys2Proof/Machine/Step.lean ====
section
/-! DEFINITION. One step is one clock cycle (70_reset_and_hazards.md R290; log 1). -/

namespace Sys2Proof.Machine

/-- One cycle; in HALTED a step changes nothing (R300). -/
def step (s : State) : Host.Outcome State Fault Refusal :=
  if s.engine = .halted then .next s else cycleStages s

/-- `s` with one word of the opcode table where the next step takes its instruction from (log 3). -/
def State.withFetchWord (s : State) (nbits w : Nat) : State := placeWord (tableWord nbits w) s

end Sys2Proof.Machine
end

