-- ==== Sys2Proof/Machine/Controller.lean ====
section
/-! DEFINITION. The controller loop (70_reset_and_hazards.md R310, R311), the trace hook
(60_exceptions.md R264) and the double-buffered form of the cycle (R290, R295). -/

namespace Sys2Proof.Machine

/-- `K`: the given budget, 100 when it is absent or not positive (R310). -/
def cycleBudget (maxCycles : Option Int) : Nat :=
  match maxCycles with
  | none => Config.defaultMaxCycles
  | some k => if 0 < k then k.toNat else Config.defaultMaxCycles

/-- How a run ends (R311). -/
inductive RunEnd where
  | halted | budget
  deriving DecidableEq, Repr

/-- A finished run: its outcome and the last state, whose `cycle` is the count reported. -/
structure RunResult where
  outcome : RunEnd
  final : State
  deriving DecidableEq, Repr

/-- The outcome a state shows when the loop stops (R310). -/
def runEnd (s : State) : RunEnd := if s.engine = .halted then .halted else .budget

/-- At most `k` more cycles; the state is tested before the count (R310). A step never stops, so the
two last arms are not reached. -/
def runCycles (k : Nat) (s : State) : RunResult :=
  match k with
  | 0 => { outcome := runEnd s, final := s }
  | k + 1 =>
    if s.engine = .halted then { outcome := .halted, final := s }
    else
      match step s with
      | .next t => runCycles k t
      | .fault _ => { outcome := runEnd s, final := s }
      | .refused _ => { outcome := runEnd s, final := s }

/-- `run(MAX_CYCLES)` from a launched core (R310). -/
def run (maxCycles : Option Int) (s : State) : RunResult := runCycles (cycleBudget maxCycles) (s.withCycle 0)

/-! ### The trace hook (R264) -/

/-- One structured event per stage: what the stage consumed and what it produced, a flush not yet
applied (R264; log 17). -/
structure TraceEvent where
  cycle : Nat
  wbConsumed : ExWb
  wbProduced : Option (RegIdx × Byte)
  exConsumed : IdEx
  exProduced : ExWb
  exFlush : Option Word
  idConsumed : IfId
  idProduced : IdEx
  ifConsumed : Word
  ifProduced : IfId
  deriving DecidableEq, Repr

/-- The register write of this cycle's WB, if there is one (R291, 10_state.md R22). -/
def wbWrite (s : State) : Option (RegIdx × Byte) :=
  if s.exwb.valid && writesReg s.exwb.tag && !(s.cfg.r0Zero && decide (s.exwb.rd = 0)) then
    some (s.exwb.rd, s.exwb.result)
  else none

/-- The event a subscriber sees for the cycle from `s`; a HALTED engine emits none. -/
def traceEvent (s : State) : Option TraceEvent :=
  if s.engine = .halted then none
  else
    match andThen (executeStage (writeBack (beginCycle s))) (fun e => fetchStage (decodeStage e)) with
    | .next u =>
      some
        { cycle := u.cycle
          wbConsumed := s.exwb
          wbProduced := wbWrite s
          exConsumed := s.idex
          exProduced := u.exwb
          exFlush := u.flushReq
          idConsumed := s.ifid
          idProduced := u.idex
          ifConsumed := s.pc
          ifProduced := u.ifid }
    | .fault _ => none
    | .refused _ => none

/-! ### R290 as written: every stage reads the registers as they were at the start of the cycle -/

/-- What IF answers in the form of R293: the new IF/ID, `fetched_ok`, and the state with what the stage
wrote in place (the engine state, the log). -/
structure FetchOut where
  ifid : IfId
  fetchedOk : Bool
  after : State
  deriving DecidableEq, Repr

/-- `IF(pc, st, stall)` (R293). -/
def fetchBuffered (pc : Word) (st : Engine) (stall : Bool) (s : State) : FetchOut :=
  if st ≠ .running ∨ stall then { ifid := bubbleIfId s.cycle, fetchedOk := false, after := s }
  else
    let f := iFetch pc s
    if f.1 = haltWord then
      { ifid := bubbleIfId s.cycle, fetchedOk := false, after := f.2.withEngine .draining }
    else { ifid := { valid := true, word := f.1, pc := pc }, fetchedOk := true, after := f.2 }

/-- Steps 3 to 8 of R290 for a cycle that began in `s` and whose WB and EX ended in `e`: `e.exwb` is
`EXWB'`, `e.flushReq` is `flush_taken` with `target`. -/
def latchBuffered (s e : State) : State :=
  let idex' := if s.ifid.valid then decodeIdEx e.cfg s.ifid.word s.ifid.pc else bubbleIdEx e.cycle
  let f := fetchBuffered s.pc s.engine (stalled s) e
  let u := f.after
  let flushed := e.flushReq.isSome
  let ifid'' := if flushed then bubbleIfId e.cycle else f.ifid
  let idex'' := if flushed then bubbleIdEx e.cycle else idex'
  let engine' := if flushed && decide (u.engine = .draining) then .running else u.engine
  let pc' := match e.flushReq with
    | some target => target
    | none => if f.fetchedOk then s.pc + 1 else s.pc
  let v := { u with ifid := ifid'', idex := idex'', exwb := e.exwb, pc := pc', engine := engine', flushReq := none
                    stallIn := s.stallIn.tail }
  if v.engine = .draining ∧ ¬ v.ifid.valid ∧ ¬ v.idex.valid ∧ ¬ v.exwb.valid then { v with engine := .halted } else v

/-- One cycle in the double-buffered form (R290). -/
def stepBuffered (s : State) : Host.Outcome State Fault Refusal :=
  if s.engine = .halted then .next s
  else andThen (executeStage (writeBack (beginCycle s))) fun e => .next (latchBuffered s e)

end Sys2Proof.Machine
end

