-- ==== Sys2Proof/Machine/HostAccess.lean ====
section
/-! DEFINITION. What the host may do before a run, and the snapshot it may take (60_exceptions.md
R260 to R263, 10_state.md R24, 70_reset_and_hazards.md R282). None of it is a step (log 12). -/

namespace Sys2Proof.Machine

/-- `raise Diag` by a host access. -/
def State.raiseHost (s : State) (d : Diag) : State := s.log { stamp := .host, diag := d }

/-- `read(index)` of the register file (R24). -/
def hostReadReg (i : Nat) (s : State) : Byte × State :=
  if i < numRegs then (s.reg (BitVec.ofNat 6 i), s) else (0x00, s.raiseHost (.regIndexOob i))

/-- `write(index, value)` of the register file (R24). -/
def hostWriteReg (i : Nat) (v : Byte) (s : State) : State :=
  if i < numRegs then s.setReg (BitVec.ofNat 6 i) v else s.raiseHost (.regIndexOob i)

/-- Host read of data memory (20_memory.md R66). -/
def hostReadData (a : Nat) (s : State) : Byte × State := memRead .host a s

/-- Host write of data memory (R67). -/
def hostWriteData (a : Nat) (v : Byte) (s : State) : State := memWrite .host a v s

/-- Host read of instruction memory (60_exceptions.md R242 code 6). -/
def hostReadInstr (a : Nat) (s : State) : Word × State :=
  if a < imemWords then (readCell s.imem a, s) else (haltWord, s.raiseHost (.imemAddrOob a))

/-- Host write of one program word; out of range it is dropped (R260). -/
def hostWriteInstr (a : Nat) (w : Word) (s : State) : State :=
  if a < imemWords then s.withImem (writeCell s.imem a w) else s.raiseHost (.imemAddrOob a)

/-- Program words from an address upward, followed by the HALT word (R260). -/
def loadFrom (a : Nat) (program : List Word) (s : State) : State :=
  match program with
  | [] => hostWriteInstr a haltWord s
  | w :: rest => loadFrom (a + 1) rest (hostWriteInstr a w s)

/-- The reset procedure of R280: IMEM, DMEM and the registers keep the values the host launched with,
the configuration and the stall inputs stay, everything else takes its reset value. -/
def resetCore (s : State) : State := State.resetWith s.cfg s.rf s.imem s.dmem s.stallIn

/-- A launch in the order of R282: fill IMEM from empty, and DMEM and the registers with the launch
values, then bring the core to reset. -/
def launch (c : Config) (program : List Word) (regInit : Vector Byte 64) (dmemInit : List Host.Cell)
    (stalls : List Bool) : State :=
  resetCore (loadFrom 0 program (State.resetWith c regInit [] dmemInit stalls))

/-! ### The flag access interface (R263): a flag id is its bit position in SREG (log 12) -/

/-- The five defined positions. -/
def flagIdValid (id : Nat) : Bool := decide (id < 5)

/-- `getFlag`. -/
def getFlag (id : Nat) (s : State) : Bool × State :=
  if flagIdValid id then (s.sreg.getLsbD id, s) else (false, s.raiseHost (.flagIdInvalid id))

/-- `setFlag`. -/
def setFlag (id : Nat) (s : State) : State :=
  if flagIdValid id then s.withSreg (s.sreg ||| BitVec.ofNat 8 (2 ^ id)) else s.raiseHost (.flagIdInvalid id)

/-- `clearFlag`. -/
def clearFlag (id : Nat) (s : State) : State :=
  if flagIdValid id then s.withSreg (s.sreg &&& ~~~(BitVec.ofNat 8 (2 ^ id))) else s.raiseHost (.flagIdInvalid id)

/-- `clearAllFlags`: bits 4..0 only. -/
def clearAllFlags (s : State) : State := s.withSreg (s.sreg &&& 0xE0)

/-! ### The snapshot (R262) -/

/-- What a snapshot shows: "all 64 registers, status flags, program counter, full instruction memory,
full data memory, current pipeline-register contents, current engine state". -/
structure Snapshot where
  registers : List Byte
  sreg : Byte
  pc : Word
  instrMemory : List Word
  dataMemory : List Byte
  ifid : IfId
  idex : IdEx
  exwb : ExWb
  engine : Engine
  deriving DecidableEq, Repr

/-- Take a snapshot; it changes nothing and raises nothing (R262). -/
def snapshot (s : State) : Snapshot :=
  { registers := (List.range numRegs).map (fun i => s.reg (BitVec.ofNat 6 i))
    sreg := s.sreg
    pc := s.pc
    instrMemory := (List.range imemWords).map (fun a => readCell s.imem a)
    dataMemory := (List.range dmemBytes).map (fun a => readCell s.dmem a)
    ifid := s.ifid
    idex := s.idex
    exwb := s.exwb
    engine := s.engine }

end Sys2Proof.Machine
end

