-- ==== Sys2Proof/WellFormed.lean ====
section
/-! DEFINITION. Which configurations and which instruction terms are well formed. -/

namespace Sys2Proof

/-- The opcode numbers in use. -/
def Config.codes (c : Config) : List Opcode := c.assigned.map Prod.fst

/-- `OPCODE_MAP` is an injective map into 0..14 (00_scope.md R7). -/
def Config.wf (c : Config) : Bool :=
  decide c.codes.Nodup && c.codes.all (fun o => decide (o ≠ 15))

/-- The range of a SIGNED6 immediate after extension, -32..31 (30_encoding.md R97). -/
def signed6 (imm : Byte) : Bool := decide (-32 ≤ imm.toInt) && decide (imm.toInt ≤ 31)

/-- The range of an UNSIGNED6 immediate after extension, 0..63 (R97). -/
def unsigned6 (imm : Byte) : Bool := decide (imm.toNat < 64)

/-- An instruction term that some word decodes to: immediates in the range of R97, MOVI only if
enabled (R95), UNKNOWN only with an opcode the map does not assign and never the HALT word (R101). -/
def Instr.wf (c : Config) : Instr → Bool
  | .add _ _ => true
  | .sub _ _ => true
  | .mul _ _ => true
  | .xor _ _ => true
  | .andi _ imm => signed6 imm
  | .sll _ k => unsigned6 k
  | .sra _ k => unsigned6 k
  | .load _ _ => true
  | .store _ _ => true
  | .beqz _ disp => signed6 disp
  | .jr _ _ => true
  | .movi _ imm => c.moviEnabled && signed6 imm
  | .halt => true
  | .unknown opc f1 f2 => decide (c.tagOf opc = .unknown) && decide (encodeFields opc f1 f2 ≠ haltWord)

end Sys2Proof
end

