-- ==== Sys2Proof/Safety.lean ====
section
/-! DEFINITION. The terms claims are stated in: the invariant of a step, what a cycle does as seen from
outside its stages, and the one-instruction-at-a-time machine the pipeline refines. -/

namespace Sys2Proof.Machine

/-! ### One cycle seen from outside -/

/-- The state EX reads in the cycle from `s`: counted, no flush yet, after this cycle's WB (R290). -/
def exInput (s : State) : State := writeBack (beginCycle s)

/-- The redirect the instruction in ID/EX asks for in the cycle from `s`, if any (R292). -/
def flushTaken (s : State) : Option Word :=
  match executeStage (exInput s) with
  | .next e => e.flushReq
  | .fault _ => none
  | .refused _ => none

/-- Whether IF may read in the cycle from `s` (R293). -/
def fetches (s : State) : Bool := decide (s.engine = .running) && !(stalled s)

/-- The word at an instruction address as IF sees it (20_memory.md R64). -/
def wordAt (s : State) (a : Word) : Word := if a.toNat < imemWords then readCell s.imem a.toNat else haltWord

/-- No pipeline register is valid (R300). -/
def pipelineEmpty (s : State) : Bool := !s.ifid.valid && !s.idex.valid && !s.exwb.valid

/-- The tags of 00_scope.md R13 "ALU-class". -/
def aluClass : Tag → Bool
  | .add => true
  | .sub => true
  | .mul => true
  | .xor => true
  | .andi => true
  | .sll => true
  | .sra => true
  | .load => false
  | .store => false
  | .beqz => false
  | .jr => false
  | .movi => false
  | .unknown => false

/-- A state with the contents of its invalid pipeline registers blotted out (10_state.md R39). -/
def maskBubbles (s : State) : State :=
  { s with
    ifid := if s.ifid.valid then s.ifid else zeroIfId
    idex := if s.idex.valid then s.idex else zeroIdEx s.cfg
    exwb := if s.exwb.valid then s.exwb else zeroExWb s.cfg }

/-- How many of the next `k` cycles have an instruction in EX (70_reset_and_hazards.md R331, E). -/
def executedIn (k : Nat) (s : State) : Nat :=
  match k with
  | 0 => 0
  | k + 1 =>
    match step s with
    | .next t => (if s.engine ≠ .halted ∧ s.idex.valid then 1 else 0) + executedIn k t
    | .fault _ => 0
    | .refused _ => 0

/-- How many of the next `k` cycles flush with another instruction in EX after them (R331, T). -/
def innerFlushes (k : Nat) (s : State) : Nat :=
  match k with
  | 0 => 0
  | k + 1 =>
    match step s with
    | .next t => (if (flushTaken s).isSome ∧ executedIn k t ≠ 0 then 1 else 0) + innerFlushes k t
    | .fault _ => 0
    | .refused _ => 0

/-! ### The invariant -/

/-- The SREG invariant of 10_state.md R29: reserved bits 0, S = N XOR V. -/
def sregLegal (b : Byte) : Prop := sregReserved b = 0 ∧ flagS b = (flagN b ^^ flagV b)

/-- A valid IF/ID holds the word of its address, never the sentinel, and the pc stands just after it
(R36, R31). -/
def ifidLegal (s : State) : Prop :=
  s.ifid.valid = true →
    s.ifid.pc.toNat < imemWords ∧ s.ifid.word = readCell s.imem s.ifid.pc.toNat ∧ s.ifid.word ≠ haltWord ∧
      s.pc = s.ifid.pc + 1

/-- A valid ID/EX holds the decode of the word of its address, and the next younger instruction or the
pc stands just after it (R37, 30_encoding.md R96). -/
def idexLegal (s : State) : Prop :=
  s.idex.valid = true →
    s.idex.pc.toNat < imemWords ∧ readCell s.imem s.idex.pc.toNat ≠ haltWord ∧
      s.idex = decodeIdEx s.cfg (readCell s.imem s.idex.pc.toNat) s.idex.pc ∧
      (if s.ifid.valid then s.ifid.pc else s.pc) = s.idex.pc + 1

/-- A valid EX/WB: the memory tag follows the operation, only LOAD and STORE carry an address, which
is below 64, and an entry that stands for no value carries 0x00 (R38, 20_memory.md R69). -/
def exwbLegal (s : State) : Prop :=
  s.exwb.valid = true →
    s.exwb.mem = (match s.exwb.tag with | .load => MemOp.load | .store => .store | _ => .none) ∧
      s.exwb.addr.toNat < 64 ∧ (s.exwb.mem = .none → s.exwb.addr = 0) ∧
      (writesReg s.exwb.tag = false → s.exwb.tag ≠ .store → s.exwb.result = 0x00)

/-- The engine state agrees with the pipeline: out of RUNNING the pc stands at a HALT word and nothing
is in IF/ID; in DRAINING something is still in flight, in HALTED nothing is (R298, R300, R301). -/
def engineLegal (s : State) : Prop :=
  (s.engine ≠ .running → wordAt s s.pc = haltWord ∧ s.ifid.valid = false) ∧
    (s.engine = .draining → pipelineEmpty s = false) ∧ (s.engine = .halted → pipelineEmpty s = true)

/-- What every step keeps. -/
structure Inv (s : State) : Prop where
  cfgWf : s.cfg.wf = true
  imemWf : Memory.wf imemWords s.imem = true
  dmemWf : Memory.wf dmemBytes s.dmem = true
  pcRange : s.pc.toNat ≤ imemWords
  noFlush : s.flushReq = none
  sreg : sregLegal s.sreg
  ifid : ifidLegal s
  idex : idexLegal s
  exwb : exwbLegal s
  engine : engineLegal s

/-! ### The one-instruction-at-a-time machine -/

/-- Whether a diagnostic belongs to an executed instruction (codes 2 and 3), not to a fetch (log 16). -/
def ofExecution : Diag → Bool
  | .imemFetchOob _ => false
  | .unknownOpcode _ _ => true
  | .branchTargetOob _ _ => true
  | .regIndexOob _ => false
  | .dmemAddrOob _ => false
  | .imemAddrOob _ => false
  | .flagIdInvalid _ => false

/-- The diagnostics of executed instructions, without their cycles. -/
def executedDiags (l : List Event) : List Diag := (l.map Event.diag).filter ofExecution

/-- The diagnostics a run from `s` to `t` has appended, without their cycles. -/
def raisedSince (s t : State) : List Diag := (t.diag.drop s.diag.length).map Event.diag

/-- The IMEM_FETCH_OOB diagnostics of the next `k` cycles, after those `pending`, without the ones whose
fetch a flush of the same or a later cycle discards (log 16). -/
def keptFetchDiags (k : Nat) (s : State) (pending : List Diag) : List Diag :=
  match k with
  | 0 => pending
  | k + 1 =>
    match step s with
    | .next t =>
      let raised := (raisedSince s t).filter fun d => !ofExecution d
      keptFetchDiags k t (if (flushTaken s).isSome then [] else pending ++ raised)
    | .fault _ => pending
    | .refused _ => pending

/-- What a program observes between instructions: no pipeline, no cycles. -/
structure Arch where
  cfg : Config
  rf : Vector Byte 64
  sreg : Byte
  imem : List (Nat × Word)
  dmem : List Host.Cell
  pc : Word
  diags : List Diag
  deriving DecidableEq, Repr

/-- The address of the oldest instruction that has not been in EX. -/
def nextAddr (s : State) : Word :=
  if s.idex.valid then s.idex.pc else if s.ifid.valid then s.ifid.pc else s.pc

/-- The architectural view of a pipeline state: every instruction that has been in EX is done, the ones
behind it have not begun. -/
def archOf (s : State) : Arch :=
  { cfg := s.cfg
    rf := (writeBack s).rf
    sreg := s.sreg
    imem := s.imem
    dmem := s.dmem
    pc := nextAddr s
    diags := executedDiags s.diag }

/-- A machine state in which the instruction of word `w` at the architectural pc is about to execute,
with nothing else in flight. -/
def Arch.load (a : Arch) (w : Word) : State :=
  { State.resetWith a.cfg a.rf a.imem a.dmem [] with sreg := a.sreg, idex := decodeIdEx a.cfg w a.pc }

/-- One whole instruction: fetch, decode, execute, write back; none at a HALT word or outside IMEM. -/
def Arch.step (a : Arch) : Option Arch :=
  if a.pc.toNat < imemWords then
    let w := readCell a.imem a.pc.toNat
    if w = haltWord then none
    else
      match exec (decode a.cfg w) (a.load w) with
      | .next u =>
        some
          { cfg := u.cfg
            rf := (writeBack u).rf
            sreg := u.sreg
            imem := u.imem
            dmem := u.dmem
            pc := match u.flushReq with | some t => t | none => a.pc + 1
            diags := a.diags ++ executedDiags u.diag }
      | .fault _ => none
      | .refused _ => none
  else none

/-! ### What an instruction's EX answers -/

/-- EX of `i` in `s` completes with result `r`, carry `c` and overflow `v` for register `rd`: the five
flags follow R127, SREG[7:5] stays, EX/WB carries the result, and nothing else changes. -/
def AluCompletes (i : Instr) (tag : Tag) (rd : RegIdx) (s : State) (r : Byte) (c v : Bool) : Prop :=
  ∃ t : State, exec i s = .next t ∧
    flagC t.sreg = c ∧ flagV t.sreg = v ∧ flagN t.sreg = r.getLsbD 7 ∧ (flagZ t.sreg = true ↔ r = 0x00) ∧
    flagS t.sreg = (r.getLsbD 7 ^^ v) ∧ sregReserved t.sreg = sregReserved s.sreg ∧
    t.exwb = { valid := true, tag := tag, result := r, rd := rd, mem := .none, addr := 0 } ∧
    t = { s with sreg := t.sreg, exwb := t.exwb }

end Sys2Proof.Machine
end

