-- ==== Sys2Proof/Certificates/Slice0/Obligations.lean ====
section
/-! DEFINITION. The statements for the provers. -/

open Sys2Proof Sys2Proof.Machine

/-! ### Encoding -/

/-- 30_encoding.md R102: the layout of an encoded word, its fields read back, and HALT as
`encode(15, 63, 63)`, opcode 15 assigned to no instruction. -/
def Obligations.EncodedFieldsReadBack : Prop :=
  ∀ (c : Config) (opc : Opcode) (f1 f2 : BitVec 6) (pc : Word),
    (encodeFields opc f1 f2).toNat = opc.toNat * 4096 + f1.toNat * 64 + f2.toNat ∧
    (decodeIdEx c (encodeFields opc f1 f2) pc).opc = opc ∧
    (decodeIdEx c (encodeFields opc f1 f2) pc).f1 = f1 ∧
    (decodeIdEx c (encodeFields opc f1 f2) pc).f2 = f2 ∧
    (encodeFields opc f1 f2 = 0xFFFF ↔ opc = 15 ∧ f1 = 63 ∧ f2 = 63) ∧
    (c.wf = true → c.tagOf 15 = .unknown)

/-- Decoding an encoded well-formed instruction gives it back, under every OPCODE_MAP of 00_scope.md R7. -/
def Obligations.DecodeInvertsEncode : Prop :=
  ∀ (c : Config) (i : Instr), c.wf = true → i.wf c = true → decode c (encode c i) = i

/-- Every word decodes to a well-formed instruction, whose encoding is that word: no bit is dropped. -/
def Obligations.EncodeInvertsDecode : Prop :=
  ∀ (c : Config) (w : Word), c.wf = true → (decode c w).wf c = true ∧ encode c (decode c w) = w

/-- 30_encoding.md R101 under this spec's map (the spec's choice D2): exactly one of HALT, UNKNOWN
(opcodes 11 to 15) and a defined instruction (opcodes 0 to 10). -/
def Obligations.EveryWordIsHaltDefinedOrUnknown : Prop :=
  ∀ w : Word,
    (decode Config.default w = .halt ↔ w = 0xFFFF) ∧
    ((∃ o a b, decode Config.default w = .unknown o a b) ↔ w ≠ 0xFFFF ∧ 11 ≤ w.toNat / 4096) ∧
    (w.toNat / 4096 ≤ 10 → Config.default.tagOf (opcField w) ∈
      [Tag.add, .sub, .mul, .xor, .andi, .sll, .sra, .load, .store, .beqz, .jr])

/-- 30_encoding.md R97, R98: the immediate of a decoded word by its tag. -/
def Obligations.ImmediateFollowsTheTag : Prop :=
  ∀ (c : Config) (w pc : Word),
    let d := decodeIdEx c w pc
    (d.tag ∈ [Tag.add, .sub, .mul, .xor, .jr, .unknown] → d.kind = .none ∧ d.imm = 0x00) ∧
    (d.tag ∈ [Tag.andi, .beqz, .movi] →
      d.kind = .signed6 ∧ d.imm.toInt = (w.extractLsb' 0 6).toInt ∧ -32 ≤ d.imm.toInt ∧ d.imm.toInt ≤ 31) ∧
    (d.tag ∈ [Tag.sll, .sra, .load, .store] →
      d.kind = .unsigned6 ∧ d.imm.toNat = w.toNat % 64 ∧ d.imm.toNat ≤ 63)

/-- The words of the vectors E-1 to E-13 and E-15 to E-19 of 95_test_vectors.md (this spec's map, D2). -/
def Obligations.SampleWordsDecode : Prop :=
  decode Config.default 0x0042 = .add 1 2 ∧ decode Config.default 0x1042 = .sub 1 2 ∧
  decode Config.default 0x2186 = .mul 6 6 ∧ decode Config.default 0x3182 = .xor 6 2 ∧
  decode Config.default 0x41B0 = .andi 6 0xF0 ∧ decode Config.default 0x4060 = .andi 1 0xE0 ∧
  decode Config.default 0x405F = .andi 1 0x1F ∧
  decode Config.default 0x5188 = .sll 6 8 ∧ decode Config.default 0x60BF = .sra 2 63 ∧
  decode Config.default 0x717F = .load 5 63 ∧ decode Config.default 0x8043 = .store 1 3 ∧
  decode Config.default 0x903C = .beqz 0 0xFC ∧ decode Config.default 0xA042 = .jr 1 2 ∧
  decode Config.default 0xB07F = .unknown 11 1 63 ∧
  decode { Config.default with moviEnabled := true } 0xB07F = .movi 1 0xFF ∧
  decode Config.default 0xC000 = .unknown 12 0 0 ∧ decode Config.default 0xD555 = .unknown 13 21 21 ∧
  decode Config.default 0xE000 = .unknown 14 0 0 ∧ decode Config.default 0xF000 = .unknown 15 0 0 ∧
  decode Config.default 0xFFFE = .unknown 15 63 62 ∧ decode Config.default 0xFFFF = .halt

/-! ### The ALU class -/

/-- 40_alu.md R121, R127 for ADD. -/
def Obligations.AddCompletes : Prop :=
  ∀ (rd rs : RegIdx) (s : State),
    let a := s.reg rd
    let b := s.reg rs
    ∃ r : Byte, r.toNat = (a.toNat + b.toNat) % 256 ∧
      AluCompletes (.add rd rs) .add rd s r (decide (a.toNat + b.toNat > 255))
        (decide (a.getLsbD 7 = b.getLsbD 7 ∧ r.getLsbD 7 ≠ a.getLsbD 7))

/-- 40_alu.md R122, R127 for SUB: C is 0 even on a borrow, and both readings of the overflow rule agree. -/
def Obligations.SubCompletes : Prop :=
  ∀ (rd rs : RegIdx) (s : State),
    let a := s.reg rd
    let b := s.reg rs
    ∃ r : Byte, (r.toNat : Int) = ((a.toNat : Int) - b.toNat) % 256 ∧
      (a.getLsbD 7 ≠ b.getLsbD 7 → (r.getLsbD 7 = b.getLsbD 7 ↔ r.getLsbD 7 ≠ a.getLsbD 7)) ∧
      AluCompletes (.sub rd rs) .sub rd s r false
        (decide (a.getLsbD 7 ≠ b.getLsbD 7 ∧ r.getLsbD 7 = b.getLsbD 7))

/-- 40_alu.md R123, R127 for MUL: the unsigned and the signed product have the same low byte. -/
def Obligations.MulCompletes : Prop :=
  ∀ (rd rs : RegIdx) (s : State),
    let a := s.reg rd
    let b := s.reg rs
    ∃ r : Byte, r.toNat = (a.toNat * b.toNat) % 256 ∧ r = BitVec.ofInt 8 (a.toInt * b.toInt) ∧
      AluCompletes (.mul rd rs) .mul rd s r false false

/-- 40_alu.md R124, R127 for XOR and ANDI, bit by bit. -/
def Obligations.XorAndAndiComplete : Prop :=
  ∀ (rd rs : RegIdx) (imm : Byte) (s : State),
    (∃ r : Byte, (∀ k : Nat, k < 8 → r.getLsbD k = ((s.reg rd).getLsbD k != (s.reg rs).getLsbD k)) ∧
      AluCompletes (.xor rd rs) .xor rd s r false false) ∧
    (∃ r : Byte, (∀ k : Nat, k < 8 → r.getLsbD k = ((s.reg rd).getLsbD k && imm.getLsbD k)) ∧
      AluCompletes (.andi rd imm) .andi rd s r false false)

/-- 40_alu.md R125, R127 for SLL. -/
def Obligations.SllCompletes : Prop :=
  ∀ (rd : RegIdx) (k : Byte) (s : State),
    ∃ r : Byte, r.toNat = (if k.toNat ≥ 8 then 0 else ((s.reg rd).toNat * 2 ^ k.toNat) % 256) ∧
      AluCompletes (.sll rd k) .sll rd s r false false

/-- 40_alu.md R126, R127 for SRA: floor division below 8, sign fill from 8 on; 7 and every k >= 8 give the
same result, and a negative value never reaches 0x00. -/
def Obligations.SraCompletes : Prop :=
  ∀ (rd : RegIdx) (k : Byte) (s : State),
    let a := s.reg rd
    ∃ r : Byte,
      (k.toNat < 8 → r.toInt = a.toInt / 2 ^ k.toNat) ∧
      (8 ≤ k.toNat → r = if a.getLsbD 7 then 0xFF else 0x00) ∧
      (7 ≤ k.toNat → r = if a.getLsbD 7 then 0xFF else 0x00) ∧
      (a.toInt < 0 → r ≠ 0x00) ∧
      AluCompletes (.sra rd k) .sra rd s r false false

/-- 40_alu.md R130 (the spec's inference from R121, R122, R127): S is the sign of the exact sum after
ADD, and the signed less-than after SUB. -/
def Obligations.SignFlagIsTheExactSign : Prop :=
  ∀ (rd rs : RegIdx) (s t : State),
    (exec (.add rd rs) s = .next t → (flagS t.sreg = true ↔ (s.reg rd).toInt + (s.reg rs).toInt < 0)) ∧
    (exec (.sub rd rs) s = .next t → (flagS t.sreg = true ↔ (s.reg rd).toInt < (s.reg rs).toInt))

/-! ### MOVI, memory, control, HALT, UNKNOWN -/

/-- 42_register_immediate.md R178 (the spec's choice D3): MOVI hands its immediate to WB and writes nothing else. -/
def Obligations.MoviCompletes : Prop :=
  ∀ (rd : RegIdx) (imm : Byte) (s : State), ∃ t : State, exec (.movi rd imm) s = .next t ∧
    t.exwb = { valid := true, tag := .movi, result := imm, rd := rd, mem := .none, addr := 0 } ∧
    t = { s with exwb := t.exwb }

/-- 43_load_store.md R192 with the absolute address of R190 (the spec's choice D10): LOAD hands the cell
to WB and changes no cell, no flag and no register. -/
def Obligations.LoadCompletes : Prop :=
  ∀ (rd : RegIdx) (addr : BitVec 6) (s : State), ∃ t : State, exec (.load rd addr) s = .next t ∧
    t.exwb.valid = true ∧ t.exwb.tag = .load ∧ t.exwb.result = readCell s.dmem addr.toNat ∧
    t.exwb.rd = rd ∧ t.exwb.mem = .load ∧ t.exwb.addr.toNat = addr.toNat ∧
    t = { s with exwb := t.exwb }

/-- 43_load_store.md R194 with R190 (D10), 20_memory.md R67: STORE writes its register to one cell in EX;
every other byte reads as before. -/
def Obligations.StoreCompletes : Prop :=
  ∀ (rs : RegIdx) (addr : BitVec 6) (s : State), Memory.wf dmemBytes s.dmem = true →
    ∃ t : State, exec (.store rs addr) s = .next t ∧
      (∀ a : Nat, readCell t.dmem a = if a = (dataAddr addr).toNat then s.reg rs else readCell s.dmem a) ∧
      (dataAddr addr).toNat = addr.toNat ∧ Memory.wf dmemBytes t.dmem = true ∧
      t.exwb = { valid := true, tag := .store, result := s.reg rs, rd := rs, mem := .store, addr := dataAddr addr } ∧
      t = { s with dmem := t.dmem, exwb := t.exwb }

/-- 44_control.md R210 with R212 (the out-of-range no-op is the spec's choice D13): not taken, taken in
range, taken out of range. -/
def Obligations.BeqzCompletes : Prop :=
  ∀ (rs : RegIdx) (disp : Byte) (s : State),
    let target : Int := (s.idex.pc.toNat : Int) + 1 + disp.toInt
    ∃ t : State, exec (.beqz rs disp) s = .next t ∧
      t.exwb = { valid := true, tag := .beqz, result := 0x00, rd := rs, mem := .none, addr := 0 } ∧
      (s.reg rs ≠ 0x00 → t = { s with exwb := t.exwb }) ∧
      (s.reg rs = 0x00 → 0 ≤ target ∧ target < 1024 →
        ∃ a : Word, (a.toNat : Int) = target ∧ t = { s with exwb := t.exwb, flushReq := some a }) ∧
      (s.reg rs = 0x00 → ¬(0 ≤ target ∧ target < 1024) →
        t = { s with exwb := t.exwb, diag := s.diag ++ [⟨.cycle s.cycle, .branchTargetOob s.idex.pc target⟩] })

/-- 44_control.md R214 with the target of R216 (from general knowledge, D12) and R212 (D13). -/
def Obligations.JrCompletes : Prop :=
  ∀ (rh rl : RegIdx) (s : State),
    let target : Nat := 256 * (s.reg rh).toNat + (s.reg rl).toNat
    ∃ t : State, exec (.jr rh rl) s = .next t ∧
      t.exwb = { valid := true, tag := .jr, result := 0x00, rd := rh, mem := .none, addr := 0 } ∧
      (target < 1024 → ∃ a : Word, a.toNat = target ∧ t = { s with exwb := t.exwb, flushReq := some a }) ∧
      (1024 ≤ target →
        t = { s with exwb := t.exwb, diag := s.diag ++ [⟨.cycle s.cycle, .branchTargetOob s.idex.pc target⟩] }) ∧
      (1024 ≤ target ↔ 4 ≤ (s.reg rh).toNat)

/-- 44_control.md R220: reading the sentinel leaves IF/ID invalid and the pc in place, enters DRAINING and
writes no register, memory or flag. -/
def Obligations.HaltCompletes : Prop :=
  ∀ s : State, ∃ t : State, exec .halt s = .next t ∧ t.engine = .draining ∧ t.ifid.valid = false ∧
    t = { s with engine := t.engine, ifid := t.ifid }

/-- 44_control.md R222 (the path through the pipeline is the spec's choice D17): UNKNOWN raises its diagnostic
and writes nothing. -/
def Obligations.UnknownCompletes : Prop :=
  ∀ (opc : Opcode) (f1 f2 : BitVec 6) (s : State), ∃ t : State, exec (.unknown opc f1 f2) s = .next t ∧
    t.exwb = { valid := true, tag := .unknown, result := 0x00, rd := f1, mem := .none, addr := 0 } ∧
    t = { s with
      exwb := t.exwb
      diag := s.diag ++ [⟨.cycle s.cycle, .unknownOpcode s.idex.pc (encodeFields opc f1 f2)⟩] }

/-! ### Frames and whole-machine rules -/

/-- EX of every instruction but STORE stores to no cell; no instruction's EX writes a register, IMEM, the
pc, the configuration, the stall inputs or the count (10_state.md R22, 20_memory.md R81). -/
def Obligations.ExecFrame : Prop :=
  ∀ (i : Instr) (s t : State), exec i s = .next t →
    ((∀ rs addr, i ≠ .store rs addr) → ∀ a : Nat, readCell t.dmem a = readCell s.dmem a) ∧
    (∀ r : RegIdx, t.reg r = s.reg r) ∧ t.rf = s.rf ∧ t.imem = s.imem ∧ t.pc = s.pc ∧ t.cfg = s.cfg ∧
    t.idex = s.idex ∧ t.stallIn = s.stallIn ∧ t.cycle = s.cycle ∧
    (i ≠ .halt → t.engine = s.engine ∧ t.ifid = s.ifid ∧ t.exwb.valid = true) ∧
    (i = .halt → t.exwb = s.exwb) ∧
    ((∀ rs d, i ≠ .beqz rs d) → (∀ h l, i ≠ .jr h l) → t.flushReq = s.flushReq ∧
      ((∀ o a b, i ≠ .unknown o a b) → t.diag = s.diag))

/-- 10_state.md R27 (for the other instructions the spec's choice D8): a cycle in which SREG changes has an
ALU-class instruction in EX; SREG[7:5] never changes (R29, D23). -/
def Obligations.SregWrittenByAluClassOnly : Prop :=
  ∀ s t : State, step s = .next t →
    sregReserved t.sreg = sregReserved s.sreg ∧
    (t.sreg ≠ s.sreg → s.engine ≠ .halted ∧ s.idex.valid = true ∧
      s.idex.tag ∈ [Tag.add, .sub, .mul, .xor, .andi, .sll, .sra])

/-- 70_reset_and_hazards.md R291: WB is the only writer of the register file, and what it writes. -/
def Obligations.RegistersWrittenByWbOnly : Prop :=
  ∀ s t : State, step s = .next t → s.engine ≠ .halted → ∀ i : RegIdx,
    t.reg i =
      if s.exwb.valid = true ∧ s.exwb.tag ∈ [Tag.add, .sub, .mul, .xor, .andi, .sll, .sra, .load, .movi] ∧
          s.exwb.rd = i ∧ ¬(s.cfg.r0Zero = true ∧ i = 0)
      then s.exwb.result else s.reg i

/-- 20_memory.md R77, R78 with R190 (D10): a byte of data memory changes only in the EX cycle of a valid
STORE to it, which stores the register as EX reads it. -/
def Obligations.DataMemoryWrittenByStoreOnly : Prop :=
  ∀ s t : State, Memory.wf dmemBytes s.dmem = true → step s = .next t → s.engine ≠ .halted → ∀ a : Nat,
    readCell t.dmem a =
      if s.idex.valid = true ∧ s.idex.tag = .store ∧ a = (dataAddr s.idex.f2).toNat
      then (writeBack s).reg s.idex.f1 else readCell s.dmem a

/-- 20_memory.md R81, 00_scope.md R7: no step changes instruction memory or the configuration. -/
def Obligations.InstructionMemoryIsConstant : Prop :=
  ∀ s t : State, step s = .next t → t.imem = s.imem ∧ t.cfg = s.cfg

/-- 41_register_register.md R158, 42 R176, 43 R196, 70 R320 (the spec's inferences): a result computed in EX
is in its register when the next cycle's EX reads, so the next instruction sees it. -/
def Obligations.ResultVisibleToNextInstruction : Prop :=
  ∀ s : State, s.engine ≠ .halted → s.idex.valid = true →
    s.idex.tag ∈ [Tag.add, .sub, .mul, .xor, .andi, .sll, .sra, .load, .movi] →
    ∃ e t : State, exec s.idex.instr (exInput s) = .next e ∧ step s = .next t ∧ t.engine ≠ .halted ∧
      t.exwb = e.exwb ∧
      ∀ i : RegIdx, (exInput t).reg i =
        if i = s.idex.f1 ∧ ¬(s.cfg.r0Zero = true ∧ i = 0) then e.exwb.result else (exInput s).reg i

/-- 20_memory.md R77, 43 R196 (D10): a LOAD in the cycle after a STORE to the same address returns the byte stored. -/
def Obligations.LoadSeesTheStoreBeforeIt : Prop :=
  ∀ (s : State) (rs : RegIdx) (addr : BitVec 6), s.engine ≠ .halted → Memory.wf dmemBytes s.dmem = true →
    s.idex.valid = true → s.idex.instr = .store rs addr →
    s.ifid.valid = true → s.cfg.tagOf (opcField s.ifid.word) = .load → f2Field s.ifid.word = addr →
    ∃ t u : State, step s = .next t ∧ step t = .next u ∧
      u.exwb.valid = true ∧ u.exwb.tag = .load ∧ u.exwb.result = (exInput s).reg rs

/-! ### The cycle -/

/-- A step runs the decoded instruction: with the decode of a word in ID/EX, a step is this cycle's WB, then
`exec` of the word's instruction, then ID, IF, flush, latching and halt detection (R290, R292). -/
def Obligations.StepRunsTheDecodedInstruction : Prop :=
  ∀ (s : State) (w pc : Word), s.engine ≠ .halted → w ≠ haltWord → s.idex = decodeIdEx s.cfg w pc →
    step s = andThen (exec (decode s.cfg w) (writeBack (beginCycle s))) fun t =>
      andThen (fetchStage (decodeStage t)) fun u => .next (endCycle u)

/-- What ID, IF and EX hand on (R293, R294, R296): with no flush and no stall the word at the pc enters IF/ID,
IF/ID is decoded into ID/EX, and EX/WB is valid exactly if ID/EX was. -/
def Obligations.StagesHandOver : Prop :=
  ∀ s t : State, step s = .next t → s.engine ≠ .halted →
    (flushTaken s = none → s.ifid.valid = true → t.idex = decodeIdEx s.cfg s.ifid.word s.ifid.pc) ∧
    (t.idex.valid = true → flushTaken s = none ∧ s.ifid.valid = true) ∧
    (flushTaken s = none → fetches s = true → wordAt s s.pc ≠ haltWord →
      t.ifid = { valid := true, word := wordAt s s.pc, pc := s.pc }) ∧
    (t.ifid.valid = true → flushTaken s = none ∧ fetches s = true ∧ wordAt s s.pc ≠ haltWord) ∧
    (t.exwb.valid = true ↔ s.idex.valid = true)

/-- 70_reset_and_hazards.md R295: the in-place evaluation in reverse pipeline order and the double-buffered
form of R290 are the same step. -/
def Obligations.InPlaceEqualsDoubleBuffered : Prop :=
  ∀ s : State, step s = stepBuffered s

/-- 10_state.md R31 (that a HALT read leaves the pc is the spec's choice D14). -/
def Obligations.PcUpdate : Prop :=
  ∀ s t : State, step s = .next t → s.engine ≠ .halted →
    t.pc =
      match flushTaken s with
      | some target => target
      | none => if fetches s = true ∧ s.pc.toNat < 1024 ∧ readCell s.imem s.pc.toNat ≠ 0xFFFF then s.pc + 1 else s.pc

/-- 70_reset_and_hazards.md R296: a flush discards what decode and fetch produced, keeps EX/WB, redirects the pc;
the discarded instructions never reach EX, and the next cycle fetches at the target. That the target is below 1024 is
the spec's choice D13, and that a flush in DRAINING lets the next cycle fetch its choice D15 (log 19). -/
def Obligations.FlushDiscardsTheYoungerTwo : Prop :=
  ∀ (s t : State) (target : Word), step s = .next t → s.engine ≠ .halted → flushTaken s = some target →
    t.ifid.valid = false ∧ t.idex.valid = false ∧ t.pc = target ∧ target.toNat < 1024 ∧
    t.exwb.valid = true ∧ t.exwb.tag = s.idex.tag ∧ (t.exwb.tag = .beqz ∨ t.exwb.tag = .jr) ∧
    ∃ u : State, step t = .next u ∧ u.exwb.valid = false ∧ u.idex.valid = false ∧
      u.sreg = t.sreg ∧ u.dmem = t.dmem ∧ u.rf = t.rf ∧ u.diag = t.diag ∧
      (stalled t = false → readCell t.imem target.toNat ≠ 0xFFFF →
        u.ifid = { valid := true, word := readCell t.imem target.toNat, pc := target })

/-- 70_reset_and_hazards.md R301 (the spec's inference; the flush rows are its choice D15): the complete table. -/
def Obligations.EngineTransitions : Prop :=
  ∀ s t : State, step s = .next t →
    (s.engine = .halted → t.engine = .halted) ∧
    (s.engine = .running → flushTaken s ≠ none → t.engine = .running) ∧
    (s.engine = .running → flushTaken s = none → stalled s = false → wordAt s s.pc = 0xFFFF →
      t.engine = if pipelineEmpty t = true then .halted else .draining) ∧
    (s.engine = .running → (stalled s = true ∨ wordAt s s.pc ≠ 0xFFFF) → t.engine = .running) ∧
    (s.engine = .draining → flushTaken s ≠ none → t.engine = .running) ∧
    (s.engine = .draining → flushTaken s = none →
      t.engine = if pipelineEmpty t = true then .halted else .draining)

/-- 70_reset_and_hazards.md R300: in HALTED a step changes nothing; HALTED is entered at the end of a cycle,
after the flush, exactly with every pipeline register invalid. -/
def Obligations.HaltedIsTerminalAndEmpty : Prop :=
  (∀ s : State, s.engine = .halted → step s = .next s) ∧
  (∀ s t : State, s.engine ≠ .halted → step s = .next t →
    (t.engine = .halted → pipelineEmpty t = true ∧ flushTaken s = none) ∧
    (t.engine = .draining → pipelineEmpty t = false))

/-- 70_reset_and_hazards.md R302 (that the stall is an input is the spec's choice D16, log 6; that a flush ends RUNNING
with or without it its choice D15, log 19): against the same cycle without it, a stall withholds the fetch and its
diagnostic, and nothing else. -/
def Obligations.StallWithholdsOneFetch : Prop :=
  ∀ (s t u : State), s.engine ≠ .halted →
    step { s with stallIn := true :: s.stallIn } = .next t → step { s with stallIn := false :: s.stallIn } = .next u →
    t.ifid.valid = false ∧ (flushTaken s = none → t.pc = s.pc) ∧
    t.rf = u.rf ∧ t.sreg = u.sreg ∧ t.dmem = u.dmem ∧ t.imem = u.imem ∧ t.idex = u.idex ∧ t.exwb = u.exwb ∧
    t.cycle = u.cycle ∧ t.cfg = u.cfg ∧ t.flushReq = u.flushReq ∧ t.stallIn = s.stallIn ∧ u.stallIn = s.stallIn ∧
    (flushTaken s ≠ none → t.pc = u.pc ∧ t.engine = u.engine ∧ t.ifid = u.ifid) ∧
    (flushTaken s = none → s.engine = .running → t.engine = .running) ∧
    (s.engine = .draining → t = u) ∧
    u.diag = t.diag ++
      (if s.engine = .running ∧ 1024 ≤ s.pc.toNat then [⟨.cycle (s.cycle + 1), .imemFetchOob s.pc⟩] else [])

/-- 70_reset_and_hazards.md R298, R300: with no flush, DRAINING ends in HALTED within three cycles. -/
def Obligations.DrainingHaltsWithinThreeCycles : Prop :=
  ∀ s a b c : State, s.engine = .draining → step s = .next a → step a = .next b → step b = .next c →
    flushTaken s = none → flushTaken a = none → flushTaken b = none → c.engine = .halted

/-- 70_reset_and_hazards.md R330, 44_control.md R224 (the spec's inferences): after a taken branch or jump two
cycles have no instruction in EX, and, with no stall and no sentinel at the target, the target's word is in ID/EX for
the third. -/
def Obligations.TakenBranchCostsTwoBubbles : Prop :=
  ∀ (s t u v : State) (target : Word), s.engine ≠ .halted → flushTaken s = some target →
    step s = .next t → step t = .next u → step u = .next v →
    t.idex.valid = false ∧ u.idex.valid = false ∧
    (stalled t = false → readCell s.imem target.toNat ≠ 0xFFFF →
      v.idex = decodeIdEx s.cfg (readCell s.imem target.toNat) target)

/-- 60_exceptions.md R240: no diagnostic or other condition stops a step: `exec` and `step` always answer a
next state. -/
def Obligations.StepAlwaysAnswersNext : Prop :=
  (∀ (i : Instr) (s : State), ∃ t : State, exec i s = .next t) ∧ ∀ s : State, ∃ t : State, step s = .next t

/-- 60_exceptions.md R243, R249 (R249's order is the spec's choice D20): a cycle appends at most one EX
diagnostic, then at most one IF diagnostic, of the codes a program can raise, stamped with its cycle. -/
def Obligations.DiagnosticsOfOneCycle : Prop :=
  ∀ s t : State, step s = .next t → s.engine ≠ .halted →
    ∃ ex fe : List Event, t.diag = s.diag ++ ex ++ fe ∧ ex.length ≤ 1 ∧ fe.length ≤ 1 ∧
      (∀ e ∈ ex, e.stamp = .cycle (s.cycle + 1) ∧ s.idex.valid = true ∧
        ((∃ pc w, e.diag = .unknownOpcode pc w) ∨ (∃ pc x, e.diag = .branchTargetOob pc x))) ∧
      (∀ e ∈ fe, e.stamp = .cycle (s.cycle + 1) ∧ e.diag = .imemFetchOob s.pc ∧ 1024 ≤ s.pc.toNat)

/-- 10_state.md R39: the stage of an invalid register is idle (WB writes no register, EX no flag, byte or diagnostic and
asks for no flush, ID hands nothing on), and the contents of an invalid register never matter: two states that differ
in nothing else step to states that differ in nothing else. -/
def Obligations.InvalidRegistersCarryNothing : Prop :=
  (∀ s t : State, s.engine ≠ .halted → step s = .next t →
    (s.exwb.valid = false → t.rf = s.rf) ∧
    (s.idex.valid = false → t.sreg = s.sreg ∧ t.dmem = s.dmem ∧ t.exwb.valid = false ∧ flushTaken s = none ∧
      executedDiags t.diag = executedDiags s.diag) ∧
    (s.ifid.valid = false → t.idex.valid = false)) ∧
  ∀ s s' t t' : State, maskBubbles s = maskBubbles s' → step s = .next t → step s' = .next t' →
    maskBubbles t = maskBubbles t'

/-! ### The invariant and the refinement -/

/-- Every step keeps the invariant `Inv` (10_state.md R29, R31, R32, R36 to R39; 70 R298, R300). -/
def Obligations.StepKeepsTheInvariant : Prop :=
  ∀ s t : State, Inv s → step s = .next t → Inv t

/-- The reset state meets the invariant. -/
def Obligations.ResetMeetsTheInvariant : Prop := Inv State.reset

/-- Every launch with a legal map and a data image in canonical form meets the invariant (70 R282). -/
def Obligations.LaunchMeetsTheInvariant : Prop :=
  ∀ (c : Config) (program : List Word) (regs : Vector Byte 64) (data : List Host.Cell) (stalls : List Bool),
    c.wf = true → Memory.wf dmemBytes data = true → Inv (launch c program regs data stalls)

/-- The pipeline refines the machine that runs one whole instruction at a time: a cycle with an instruction in
EX is exactly one instruction of it, any other cycle is none, and HALTED is its end (70 R320, R321; 20 R77). -/
def Obligations.PipelineRefinesSequentialMachine : Prop :=
  ∀ s t : State, Inv s → step s = .next t →
    (s.engine ≠ .halted → s.idex.valid = true → (archOf s).step = some (archOf t)) ∧
    (s.engine ≠ .halted → s.idex.valid = false → archOf t = archOf s) ∧
    (s.engine = .halted → (archOf s).step = none)

/-- 70_reset_and_hazards.md R303 (the spec's inference): two runs of one launch state that both reach HALTED end in the
same registers, SREG, memories and pc whatever the stalls are, and, if neither fetches outside IMEM, with the same
sequence of codes and infos in DIAG. With such a fetch R303's clause on DIAG does not follow from R290 (log 16); what
does is stated: the same sequence of executed diagnostics (codes 2 and 3) and the same IMEM_FETCH_OOB diagnostics of
fetches that no flush discards. -/
def Obligations.StallsChangeTimingOnly : Prop :=
  ∀ (s : State) (l l' : List Bool) (k k' : Nat), Inv s →
    (runCycles k { s with stallIn := l }).outcome = .halted →
    (runCycles k' { s with stallIn := l' }).outcome = .halted →
    let t := (runCycles k { s with stallIn := l }).final
    let t' := (runCycles k' { s with stallIn := l' }).final
    t.rf = t'.rf ∧ t.sreg = t'.sreg ∧ t.dmem = t'.dmem ∧ t.imem = t'.imem ∧ t.pc = t'.pc ∧
      ((∀ d ∈ raisedSince s t ++ raisedSince s t', ofExecution d = true) → raisedSince s t = raisedSince s t') ∧
      executedDiags t.diag = executedDiags t'.diag ∧
      keptFetchDiags k { s with stallIn := l } [] = keptFetchDiags k' { s with stallIn := l' } []

/-! ### Memory -/

/-- 20_memory.md R66: MemRead in and out of range. -/
def Obligations.MemReadBoundsCheck : Prop :=
  ∀ (t : Stamp) (a : Nat) (s : State),
    (a < 2048 → memRead t a s = (readCell s.dmem a, s)) ∧
    (2048 ≤ a → memRead t a s = (0x00, { s with diag := s.diag ++ [⟨t, .dmemAddrOob a⟩] }))

/-- 20_memory.md R67: MemWrite in range sets the one cell, out of range it changes no cell. -/
def Obligations.MemWriteBoundsCheck : Prop :=
  ∀ (t : Stamp) (a : Nat) (v : Byte) (s : State), Memory.wf dmemBytes s.dmem = true →
    (a < 2048 → ∀ b : Nat, (memRead t b (memWrite t a v s)).1 = if b = a then v else (memRead t b s).1) ∧
    (a < 2048 → memWrite t a v s = { s with dmem := (memWrite t a v s).dmem }) ∧
    (2048 ≤ a → memWrite t a v s = { s with diag := s.diag ++ [⟨t, .dmemAddrOob a⟩] })

/-- 20_memory.md R64: IFetch in and out of range. -/
def Obligations.IFetchBoundsCheck : Prop :=
  ∀ (a : Word) (s : State),
    (a.toNat < 1024 → iFetch a s = (readCell s.imem a.toNat, s)) ∧
    (1024 ≤ a.toNat →
      iFetch a s = (0xFFFF, { s with diag := s.diag ++ [⟨.cycle s.cycle, .imemFetchOob a⟩] }))

/-- Two memories in canonical form that read alike at every address are the same list (the model's form, log 11). -/
def Obligations.CanonicalMemoriesAreEqual : Prop :=
  ∀ (n size : Nat) (m m' : List (Nat × BitVec n)), Memory.wf size m = true → Memory.wf size m' = true →
    (∀ a : Nat, readCell m a = readCell m' a) → m = m'

/-! ### Registers, reset, host, controller -/

/-- 10_state.md R21, R22: a register write sets that register alone, and with R0_ZERO register 0 reads zero
whatever was written. -/
def Obligations.RegisterReadAfterWrite : Prop :=
  ∀ (s : State) (i j : RegIdx) (v : Byte),
    (s.cfg.r0Zero = false → (s.setReg i v).reg j = if j = i then v else s.reg j) ∧
    (s.cfg.r0Zero = true → s.setReg 0 v = s ∧ s.reg 0 = 0x00 ∧
      (i ≠ 0 → (s.setReg i v).reg j = if j = i then v else s.reg j)) ∧
    s.setReg i v = { s with rf := (s.setReg i v).rf }

/-- 10_state.md R45 (D18; the pipeline registers are the document's own "all-invalid, zeroed", their tags the decode of
opcode 0 by R40, their kinds NONE by log 8; DIAG is D20). -/
def Obligations.ResetValues : Prop :=
  (∀ i : RegIdx, State.reset.reg i = 0x00) ∧ State.reset.sreg = 0x00 ∧ State.reset.pc = 0 ∧
  State.reset.engine = .running ∧ pipelineEmpty State.reset = true ∧
  State.reset.ifid.word = 0 ∧ State.reset.ifid.pc = 0 ∧
  State.reset.idex.opc = 0 ∧ State.reset.idex.tag = .add ∧ State.reset.idex.f1 = 0 ∧ State.reset.idex.f2 = 0 ∧
  State.reset.idex.kind = .none ∧ State.reset.idex.imm = 0 ∧ State.reset.idex.pc = 0 ∧
  State.reset.exwb.tag = .add ∧ State.reset.exwb.result = 0 ∧ State.reset.exwb.rd = 0 ∧
  State.reset.exwb.mem = .none ∧ State.reset.exwb.addr = 0 ∧
  (∀ a : Nat, readCell State.reset.dmem a = 0x00) ∧ State.reset.diag = [] ∧ State.reset.cycle = 0

/-- 60_exceptions.md R260, 20_memory.md R68 (D18): after a launch IMEM holds the program from 0, the HALT word
after it, and 0x0000 elsewhere; a HALT word with no room is dropped; the rest is the reset state of R280 (the kinds in
the pipeline registers by log 8). That DIAG is empty even after a word was dropped is the model's choice, log 12. -/
def Obligations.LaunchLoadsTheProgram : Prop :=
  ∀ (c : Config) (program : List Word) (regs : Vector Byte 64) (data : List Host.Cell) (stalls : List Bool),
    let s := launch c program regs data stalls
    (∀ a : Nat, a < 1024 → readCell s.imem a =
      if a < program.length then program.getD a 0 else if a = program.length then 0xFFFF else 0x0000) ∧
    s.rf = regs ∧ s.dmem = data ∧ s.pc = 0 ∧ s.engine = .running ∧ s.sreg = 0x00 ∧
    s.ifid = { valid := false, word := 0, pc := 0 } ∧
    s.idex = { valid := false, opc := 0, tag := c.tagOf 0, f1 := 0, f2 := 0, kind := .none, imm := 0, pc := 0 } ∧
    s.exwb = { valid := false, tag := c.tagOf 0, result := 0, rd := 0, mem := .none, addr := 0 } ∧
    s.diag = [] ∧ s.cycle = 0 ∧ s.cfg = c ∧ s.stallIn = stalls ∧ s.flushReq = none

/-- 10_state.md R24 (D24): host access to the register file, in range and out of it. -/
def Obligations.HostRegisterAccess : Prop :=
  ∀ (i : Nat) (v : Byte) (s : State),
    (i < 64 → hostReadReg i s = (s.reg (BitVec.ofNat 6 i), s) ∧
      hostWriteReg i v s = s.setReg (BitVec.ofNat 6 i) v ∧
      (s.cfg.r0Zero = false → (hostReadReg i (hostWriteReg i v s)).1 = v)) ∧
    (64 ≤ i → hostReadReg i s = (0x00, { s with diag := s.diag ++ [⟨.host, .regIndexOob i⟩] }) ∧
      hostWriteReg i v s = { s with diag := s.diag ++ [⟨.host, .regIndexOob i⟩] })

/-- 60_exceptions.md R263 (D24): the flag interface reads, sets and clears the named position alone, turns any
other away with its diagnostic, and `clearAllFlags` leaves SREG[7:5]. -/
def Obligations.FlagInterface : Prop :=
  ∀ (id : Nat) (s : State),
    (id < 5 → getFlag id s = (s.sreg.getLsbD id, s) ∧
      setFlag id s = { s with sreg := (setFlag id s).sreg } ∧
      clearFlag id s = { s with sreg := (clearFlag id s).sreg } ∧
      ∀ j : Nat, j < 8 →
        (setFlag id s).sreg.getLsbD j = (decide (j = id) || s.sreg.getLsbD j) ∧
        (clearFlag id s).sreg.getLsbD j = (!decide (j = id) && s.sreg.getLsbD j)) ∧
    (5 ≤ id →
      getFlag id s = (false, { s with diag := s.diag ++ [⟨.host, .flagIdInvalid id⟩] }) ∧
      setFlag id s = { s with diag := s.diag ++ [⟨.host, .flagIdInvalid id⟩] } ∧
      clearFlag id s = { s with diag := s.diag ++ [⟨.host, .flagIdInvalid id⟩] }) ∧
    clearAllFlags s = { s with sreg := (clearAllFlags s).sreg } ∧
    (∀ j : Nat, j < 8 → (clearAllFlags s).sreg.getLsbD j = (decide (5 ≤ j) && s.sreg.getLsbD j))

/-- 60_exceptions.md R242 code 6, R260 (D20, D18): host access to one instruction word. -/
def Obligations.HostInstructionAccess : Prop :=
  ∀ (a : Nat) (w : Word) (s : State), Memory.wf imemWords s.imem = true →
    (a < 1024 → hostReadInstr a s = (readCell s.imem a, s) ∧
      (∀ b : Nat, readCell (hostWriteInstr a w s).imem b = if b = a then w else readCell s.imem b) ∧
      hostWriteInstr a w s = { s with imem := (hostWriteInstr a w s).imem }) ∧
    (1024 ≤ a → hostReadInstr a s = (0xFFFF, { s with diag := s.diag ++ [⟨.host, .imemAddrOob a⟩] }) ∧
      hostWriteInstr a w s = { s with diag := s.diag ++ [⟨.host, .imemAddrOob a⟩] })

/-- 60_exceptions.md R262: a snapshot shows every register as an instruction reads it, SREG, the pc, every cell
of both memories, the pipeline registers and the engine state. -/
def Obligations.SnapshotShowsTheState : Prop :=
  ∀ s : State,
    (∀ i : RegIdx, (snapshot s).registers[i.toNat]? = some (s.reg i)) ∧
    (snapshot s).registers.length = 64 ∧ (snapshot s).instrMemory.length = 1024 ∧
    (snapshot s).dataMemory.length = 2048 ∧
    (∀ a : Nat, a < 1024 → (snapshot s).instrMemory[a]? = some (readCell s.imem a)) ∧
    (∀ a : Nat, a < 2048 → (snapshot s).dataMemory[a]? = some (readCell s.dmem a)) ∧
    (snapshot s).sreg = s.sreg ∧ (snapshot s).pc = s.pc ∧ (snapshot s).ifid = s.ifid ∧
    (snapshot s).idex = s.idex ∧ (snapshot s).exwb = s.exwb ∧ (snapshot s).engine = s.engine

/-- 70_reset_and_hazards.md R310, R311 (D21): a run ends HALTED within the budget or at the budget, and a
missing or non-positive MAX_CYCLES is 100. -/
def Obligations.ControllerOutcomes : Prop :=
  (∀ (m : Option Int) (s : State),
    let r := run m s
    (r.outcome = .halted → r.final.engine = .halted ∧ r.final.cycle ≤ cycleBudget m) ∧
    (r.outcome = .budget → r.final.engine ≠ .halted ∧ r.final.cycle = cycleBudget m)) ∧
  cycleBudget none = 100 ∧ (∀ k : Int, k ≤ 0 → cycleBudget (some k) = 100) ∧
  (∀ k : Int, 0 < k → (cycleBudget (some k) : Int) = k)

/-- 70_reset_and_hazards.md R331 (the spec's inference): without stalls, a launch whose run reaches HALTED does
so after 1 cycle if nothing reached EX, else after E + 3 + 2T cycles, E the instructions that reached EX and T the
flushes of all but the last of them. -/
def Obligations.RunLengthCountsInstructionsAndFlushes : Prop :=
  ∀ (c : Config) (program : List Word) (regs : Vector Byte 64) (data : List Host.Cell) (k : Nat),
    let s := launch c program regs data []
    let r := runCycles k s
    r.outcome = .halted →
      r.final.cycle =
        if executedIn r.final.cycle s = 0 then 1
        else executedIn r.final.cycle s + 3 + 2 * innerFlushes r.final.cycle s

/-- A word placed by `withFetchWord` (the model's entry, log 3) is run by the very next step: in EX with
its own address, or, for the sentinel, in IF. -/
def Obligations.PlacedWordRunsNext : Prop :=
  ∀ (s : State) (w : Word),
    let p := s.withFetchWord 16 w.toNat
    (w ≠ haltWord →
      p.idex = decodeIdEx (enableFor s.cfg w) w s.pc ∧
      step p =
        andThen (exec (decode (enableFor s.cfg w) w) (writeBack (beginCycle p))) fun t =>
          andThen (fetchStage (decodeStage t)) fun u => .next (endCycle u)) ∧
    (w = haltWord → Memory.wf imemWords s.imem = true →
      ∃ t : State, step p = .next t ∧ t.pc = s.pc ∧ t.ifid.valid = false ∧ t.engine ≠ .running)
end

