-- ==== Sys2Proof/Laws/PerInstr.lean ====
section
/-! SUPPORT. Per-instruction laws about the syntax: where each operand stands in the word
(30_encoding.md R91 to R93). -/

namespace Sys2Proof.Laws

/-- The fields of three adjacent bit vectors. -/
theorem opcField_encodeFields (o : Opcode) (a b : BitVec 6) : opcField (encodeFields o a b) = o := by
  unfold opcField encodeFields
  ext i hi
  simp only [BitVec.getElem_extractLsb', BitVec.getLsbD_append]
  rw [if_neg (by omega), if_neg (by omega), BitVec.getLsbD_eq_getElem (by omega)]
  congr 1
  omega

theorem f1Field_encodeFields (o : Opcode) (a b : BitVec 6) : f1Field (encodeFields o a b) = a := by
  unfold f1Field encodeFields
  ext i hi
  simp only [BitVec.getElem_extractLsb', BitVec.getLsbD_append]
  rw [if_neg (by omega), if_pos (by omega), BitVec.getLsbD_eq_getElem (by omega)]
  congr 1
  omega

theorem f2Field_encodeFields (o : Opcode) (a b : BitVec 6) : f2Field (encodeFields o a b) = b := by
  unfold f2Field encodeFields
  ext i hi
  simp only [BitVec.getElem_extractLsb', BitVec.getLsbD_append]
  rw [if_pos (by omega), BitVec.getLsbD_eq_getElem (by omega)]
  congr 1
  omega

/-- The operand in bits 11..6. -/
def field1 : Instr → BitVec 6
  | .add rd _ => rd
  | .sub rd _ => rd
  | .mul rd _ => rd
  | .xor rd _ => rd
  | .andi rd _ => rd
  | .sll rd _ => rd
  | .sra rd _ => rd
  | .load rd _ => rd
  | .store rs _ => rs
  | .beqz rs _ => rs
  | .jr rh _ => rh
  | .movi rd _ => rd
  | .halt => 63
  | .unknown _ f1 _ => f1

/-- The operand in bits 5..0. -/
def field2 : Instr → BitVec 6
  | .add _ rs => rs
  | .sub _ rs => rs
  | .mul _ rs => rs
  | .xor _ rs => rs
  | .andi _ imm => immField imm
  | .sll _ k => immField k
  | .sra _ k => immField k
  | .load _ addr => addr
  | .store _ addr => addr
  | .beqz _ disp => immField disp
  | .jr _ rl => rl
  | .movi _ imm => immField imm
  | .halt => 63
  | .unknown _ _ f2 => f2

/-- The word of an instruction carries its operands in their fields. -/
def OperandFields.Statement (i : Instr) : Prop :=
  ∀ c : Config, f1Field (encode c i) = field1 i ∧ f2Field (encode c i) = field2 i

/-- Any three fields carry their operands. -/
theorem fields_of (o : Opcode) (a b : BitVec 6) :
    f1Field (encodeFields o a b) = a ∧ f2Field (encodeFields o a b) = b :=
  ⟨f1Field_encodeFields o a b, f2Field_encodeFields o a b⟩

theorem OperandFields.add (rd rs : RegIdx) : OperandFields.Statement (.add rd rs) := fun _ => fields_of _ _ _
theorem OperandFields.sub (rd rs : RegIdx) : OperandFields.Statement (.sub rd rs) := fun _ => fields_of _ _ _
theorem OperandFields.mul (rd rs : RegIdx) : OperandFields.Statement (.mul rd rs) := fun _ => fields_of _ _ _
theorem OperandFields.xor (rd rs : RegIdx) : OperandFields.Statement (.xor rd rs) := fun _ => fields_of _ _ _
theorem OperandFields.andi (rd : RegIdx) (imm : Byte) : OperandFields.Statement (.andi rd imm) :=
  fun _ => fields_of _ _ _
theorem OperandFields.sll (rd : RegIdx) (k : Byte) : OperandFields.Statement (.sll rd k) := fun _ => fields_of _ _ _
theorem OperandFields.sra (rd : RegIdx) (k : Byte) : OperandFields.Statement (.sra rd k) := fun _ => fields_of _ _ _
theorem OperandFields.load (rd : RegIdx) (addr : BitVec 6) : OperandFields.Statement (.load rd addr) :=
  fun _ => fields_of _ _ _
theorem OperandFields.store (rs : RegIdx) (addr : BitVec 6) : OperandFields.Statement (.store rs addr) :=
  fun _ => fields_of _ _ _
theorem OperandFields.beqz (rs : RegIdx) (disp : Byte) : OperandFields.Statement (.beqz rs disp) :=
  fun _ => fields_of _ _ _
theorem OperandFields.jr (rh rl : RegIdx) : OperandFields.Statement (.jr rh rl) := fun _ => fields_of _ _ _
theorem OperandFields.movi (rd : RegIdx) (imm : Byte) : OperandFields.Statement (.movi rd imm) :=
  fun _ => fields_of _ _ _
theorem OperandFields.halt : OperandFields.Statement .halt := fun _ =>
  show f1Field haltWord = 63 ∧ f2Field haltWord = 63 by decide
theorem OperandFields.unknown (opc : Opcode) (f1 f2 : BitVec 6) : OperandFields.Statement (.unknown opc f1 f2) :=
  fun _ => fields_of _ _ _

end Sys2Proof.Laws
end

