-- ==== Sys2Proof/Laws/Decode.lean ====
section
/-! SUPPORT. The opcode map and its inverse (30_encoding.md R94, R95; 00_scope.md R7), and what the
fields of decoded words and instructions are. -/

namespace Sys2Proof

/-- In a table with no repeated opcode, an entry's opcode is looked up to its tag. -/
theorem lookupTag_of_mem {l : List (Opcode × Tag)} (h : (l.map Prod.fst).Nodup) {o : Opcode} {t : Tag}
    (hm : (o, t) ∈ l) : lookupTag o l = t := by
  induction l with
  | nil => cases hm
  | cons e l ih =>
    obtain ⟨p, u⟩ := e
    simp only [List.map_cons, List.nodup_cons] at h
    rcases List.mem_cons.1 hm with he | he
    · cases he
      exact if_pos rfl
    · have hp : p ≠ o := by
        rintro rfl
        exact h.1 (List.mem_map_of_mem (f := Prod.fst) he)
      exact (if_neg hp).trans (ih h.2 he)

/-- What a table answers other than UNKNOWN is one of its entries. -/
theorem mem_of_lookupTag {l : List (Opcode × Tag)} {o : Opcode} {t : Tag} (h : lookupTag o l = t)
    (ht : t ≠ .unknown) : (o, t) ∈ l := by
  induction l with
  | nil => exact absurd h.symm ht
  | cons e l ih =>
    obtain ⟨p, u⟩ := e
    unfold lookupTag at h
    split at h
    · rename_i hp
      rw [← h, ← hp]
      exact List.mem_cons_self
    · exact List.mem_cons_of_mem _ (ih h)

/-- A legal map repeats no opcode. -/
theorem Config.nodup_of_wf {c : Config} (h : c.wf = true) : (c.assigned.map Prod.fst).Nodup := by
  simp only [Config.wf, Bool.and_eq_true, decide_eq_true_eq] at h
  exact h.1

/-- A legal map assigns no operation the opcode 15. -/
theorem Config.ne_fifteen_of_wf {c : Config} (h : c.wf = true) {o : Opcode} {t : Tag}
    (hm : (o, t) ∈ c.assigned) : o ≠ 15 := by
  simp only [Config.wf, Bool.and_eq_true, List.all_eq_true, decide_eq_true_eq] at h
  exact h.2 o (List.mem_map_of_mem (f := Prod.fst) hm)

/-- Under a legal map an assigned opcode decodes to its tag. -/
theorem Config.tagOf_of_mem {c : Config} (h : c.wf = true) {o : Opcode} {t : Tag} (hm : (o, t) ∈ c.assigned) :
    c.tagOf o = t := lookupTag_of_mem (Config.nodup_of_wf h) hm

/-- The operation of an instruction in ID/EX never is the sentinel. -/
theorem IdEx.instr_ne_halt (d : IdEx) : d.instr ≠ .halt := by
  unfold IdEx.instr
  cases d.tag <;> simp

/-- The instruction of a decoded word does not depend on its address. -/
theorem instr_decodeIdEx (c : Config) {w : Word} (pc : Word) (h : w ≠ haltWord) :
    (decodeIdEx c w pc).instr = decode c w := by
  unfold decode
  rw [if_neg h]
  rfl

/-- A signed 6-bit immediate is the extension of its field. -/
theorem sext8_immField {imm : Byte} (h : signed6 imm = true) : sext8 (immField imm) = imm := by
  revert h; revert imm; decide

/-- An unsigned 6-bit immediate is the extension of its field. -/
theorem zext8_immField {imm : Byte} (h : unsigned6 imm = true) : zext8 (immField imm) = imm := by
  revert h; revert imm; decide

/-- A field is the low bits of its signed extension, which is in range. -/
theorem immField_sext8 (f : BitVec 6) : immField (sext8 f) = f ∧ signed6 (sext8 f) = true := by
  revert f; decide

/-- A field is the low bits of its unsigned extension, which is in range. -/
theorem immField_zext8 (f : BitVec 6) : immField (zext8 f) = f ∧ unsigned6 (zext8 f) = true := by
  revert f; decide

end Sys2Proof
end

