-- ==== Sys2Proof/Laws/Flags.lean ====
section
/-! SUPPORT. SREG's fields: each field of a packed value, and everything SetFlags does. -/

namespace Sys2Proof.Machine

section
variable (q : BitVec 3) (c v n s z : Bool)

@[simp] theorem sregReserved_packSreg : sregReserved (packSreg q c v n s z) = q := by
  revert q c v n s z; decide

@[simp] theorem flagC_packSreg : flagC (packSreg q c v n s z) = c := by
  revert q c v n s z; decide

@[simp] theorem flagV_packSreg : flagV (packSreg q c v n s z) = v := by
  revert q c v n s z; decide

@[simp] theorem flagN_packSreg : flagN (packSreg q c v n s z) = n := by
  revert q c v n s z; decide

@[simp] theorem flagS_packSreg : flagS (packSreg q c v n s z) = s := by
  revert q c v n s z; decide

@[simp] theorem flagZ_packSreg : flagZ (packSreg q c v n s z) = z := by
  revert q c v n s z; decide

end

/-- SREG is its fields. -/
theorem packSreg_fields (b : Byte) :
    packSreg (sregReserved b) (flagC b) (flagV b) (flagN b) (flagS b) (flagZ b) = b := by
  revert b; decide

section
variable (b r : Byte) (c v : Bool)

@[simp] theorem sregReserved_setFlags : sregReserved (setFlags b r c v) = sregReserved b := by
  simp [setFlags]

@[simp] theorem flagC_setFlags : flagC (setFlags b r c v) = c := by simp [setFlags]

@[simp] theorem flagV_setFlags : flagV (setFlags b r c v) = v := by simp [setFlags]

@[simp] theorem flagN_setFlags : flagN (setFlags b r c v) = r.msb := by simp [setFlags]

@[simp] theorem flagS_setFlags : flagS (setFlags b r c v) = (r.msb ^^ v) := by simp [setFlags]

@[simp] theorem flagZ_setFlags : flagZ (setFlags b r c v) = decide (r = 0x00) := by simp [setFlags]

end

end Sys2Proof.Machine
end

