-- ==== Sys2Proof/Laws/Memory.lean ====
section
/-! SUPPORT. The laws of the listed memories: read after write, and the canonical form is kept. -/

namespace Sys2Proof.Machine

variable {n : Nat}

@[simp] theorem readCell_nil (a : Nat) : readCell ([] : List (Nat × BitVec n)) a = unlisted n := rfl

theorem readCell_cons (k : Nat) (v : BitVec n) (m : List (Nat × BitVec n)) (a : Nat) :
    readCell ((k, v) :: m) a = if k = a then v else readCell m a := rfl

/-- An address below every listed one is unlisted. -/
theorem readCell_below (m : List (Nat × BitVec n)) (a : Nat) (h : ∀ c ∈ m, a < c.1) :
    readCell m a = unlisted n := by
  induction m with
  | nil => rfl
  | cons c m ih =>
    obtain ⟨k, v⟩ := c
    have hk : a < k := h (k, v) (by simp)
    rw [readCell_cons, if_neg (by omega), ih fun c hc => h c (by simp [hc])]

theorem wf_cons (size k : Nat) (v : BitVec n) (m : List (Nat × BitVec n)) :
    Memory.wf size ((k, v) :: m) = true ↔
      k < size ∧ v ≠ unlisted n ∧ (∀ c ∈ m, k < c.1) ∧ Memory.wf size m = true := by
  simp [Memory.wf, and_assoc]

theorem readCell_consCell (a : Nat) (v : BitVec n) (m : List (Nat × BitVec n)) (h : ∀ c ∈ m, a < c.1) (b : Nat) :
    readCell (consCell a v m) b = if a = b then v else readCell m b := by
  unfold consCell
  split
  · rename_i hv
    split
    · rename_i hab
      rw [← hab, readCell_below m a h, hv]
    · rfl
  · rfl

/-- Read after write: the written cell holds the value, every other cell what it held. -/
theorem readCell_writeCell (size : Nat) (m : List (Nat × BitVec n)) (hm : Memory.wf size m = true) (a : Nat)
    (v : BitVec n) (b : Nat) : readCell (writeCell m a v) b = if a = b then v else readCell m b := by
  induction m with
  | nil => exact readCell_consCell a v [] (by simp) b
  | cons c m ih =>
    obtain ⟨k, x⟩ := c
    obtain ⟨-, -, hlt, hwf⟩ := (wf_cons size k x m).1 hm
    unfold writeCell
    split
    · rename_i hak
      refine readCell_consCell a v _ ?_ b
      intro c hc
      rcases List.mem_cons.1 hc with rfl | hc
      · exact hak
      · exact Nat.lt_trans hak (hlt c hc)
    · split
      · rename_i hka
        rw [readCell_consCell a v m (by rw [← hka]; exact hlt), readCell_cons]
        split <;> simp_all
      · rename_i hka
        rw [readCell_cons, readCell_cons, ih hwf]
        split <;> split <;> simp_all

/-- Every address of a written memory is the written one or was listed. -/
theorem mem_writeCell (m : List (Nat × BitVec n)) (a : Nat) (v : BitVec n) :
    ∀ c ∈ writeCell m a v, c.1 = a ∨ c ∈ m := by
  induction m with
  | nil =>
    intro c hc
    unfold writeCell consCell at hc
    split at hc
    · exact .inr hc
    · simp_all
  | cons d m ih =>
    obtain ⟨k, x⟩ := d
    intro c hc
    unfold writeCell consCell at hc
    split at hc
    · split at hc
      · exact .inr hc
      · rcases List.mem_cons.1 hc with rfl | hc
        · exact .inl rfl
        · exact .inr hc
    · split at hc
      · split at hc
        · exact .inr (List.mem_cons_of_mem _ hc)
        · rcases List.mem_cons.1 hc with rfl | hc
          · exact .inl rfl
          · exact .inr (List.mem_cons_of_mem _ hc)
      · rcases List.mem_cons.1 hc with rfl | hc
        · exact .inr (by simp)
        · rcases ih c hc with h | h
          · exact .inl h
          · exact .inr (List.mem_cons_of_mem _ h)

theorem wf_consCell (size a : Nat) (v : BitVec n) (m : List (Nat × BitVec n)) (ha : a < size)
    (h : ∀ c ∈ m, a < c.1) (hm : Memory.wf size m = true) : Memory.wf size (consCell a v m) = true := by
  unfold consCell
  split
  · exact hm
  · rename_i hv
    exact (wf_cons size a v m).2 ⟨ha, hv, h, hm⟩

/-- A write keeps the canonical form. -/
theorem wf_writeCell (size : Nat) (m : List (Nat × BitVec n)) (hm : Memory.wf size m = true) (a : Nat)
    (ha : a < size) (v : BitVec n) : Memory.wf size (writeCell m a v) = true := by
  induction m with
  | nil => exact wf_consCell size a v [] ha (by simp) hm
  | cons c m ih =>
    obtain ⟨k, x⟩ := c
    obtain ⟨hk, hx, hlt, hwf⟩ := (wf_cons size k x m).1 hm
    unfold writeCell
    split
    · rename_i hak
      refine wf_consCell size a v _ ha ?_ hm
      intro c hc
      rcases List.mem_cons.1 hc with rfl | hc
      · exact hak
      · exact Nat.lt_trans hak (hlt c hc)
    · split
      · rename_i hka
        exact wf_consCell size a v m ha (by rw [← hka]; exact hlt) hwf
      · rename_i hak hka
        refine (wf_cons size k x _).2 ⟨hk, hx, ?_, ih hwf⟩
        intro c hc
        rcases mem_writeCell m a v c hc with h | h
        · omega
        · exact hlt c h

/-- `MemWrite` keeps the canonical form of data memory, in range or out of it. -/
theorem memWrite_wf (t : Stamp) (a : Nat) (v : Byte) (s : State) (h : Memory.wf dmemBytes s.dmem = true) :
    Memory.wf dmemBytes (memWrite t a v s).dmem = true := by
  unfold memWrite
  split
  · rename_i ha
    exact wf_writeCell dmemBytes s.dmem h a ha v
  · exact h

/-- `MemRead` changes no cell. -/
theorem memRead_dmem (t : Stamp) (a : Nat) (s : State) : (memRead t a s).2.dmem = s.dmem := by
  unfold memRead; split <;> rfl

/-- The reset memories are in canonical form. -/
theorem reset_memories_wf :
    Memory.wf imemWords State.reset.imem = true ∧ Memory.wf dmemBytes State.reset.dmem = true := ⟨rfl, rfl⟩

end Sys2Proof.Machine
end

