-- ==== Sys2Proof/Laws/State.lean ====
section
/-! SUPPORT. One lemma per field per update of State, each true by rfl. -/

namespace Sys2Proof.Machine

/-! ### withRf -/

@[simp] theorem State.withRf_cfg (s : State) (v : Vector Byte 64) : (s.withRf v).cfg = s.cfg := rfl
@[simp] theorem State.withRf_rf (s : State) (v : Vector Byte 64) : (s.withRf v).rf = v := rfl
@[simp] theorem State.withRf_sreg (s : State) (v : Vector Byte 64) : (s.withRf v).sreg = s.sreg := rfl
@[simp] theorem State.withRf_pc (s : State) (v : Vector Byte 64) : (s.withRf v).pc = s.pc := rfl
@[simp] theorem State.withRf_engine (s : State) (v : Vector Byte 64) : (s.withRf v).engine = s.engine := rfl
@[simp] theorem State.withRf_ifid (s : State) (v : Vector Byte 64) : (s.withRf v).ifid = s.ifid := rfl
@[simp] theorem State.withRf_idex (s : State) (v : Vector Byte 64) : (s.withRf v).idex = s.idex := rfl
@[simp] theorem State.withRf_exwb (s : State) (v : Vector Byte 64) : (s.withRf v).exwb = s.exwb := rfl
@[simp] theorem State.withRf_imem (s : State) (v : Vector Byte 64) : (s.withRf v).imem = s.imem := rfl
@[simp] theorem State.withRf_dmem (s : State) (v : Vector Byte 64) : (s.withRf v).dmem = s.dmem := rfl
@[simp] theorem State.withRf_diag (s : State) (v : Vector Byte 64) : (s.withRf v).diag = s.diag := rfl
@[simp] theorem State.withRf_stallIn (s : State) (v : Vector Byte 64) : (s.withRf v).stallIn = s.stallIn := rfl
@[simp] theorem State.withRf_cycle (s : State) (v : Vector Byte 64) : (s.withRf v).cycle = s.cycle := rfl
@[simp] theorem State.withRf_flushReq (s : State) (v : Vector Byte 64) : (s.withRf v).flushReq = s.flushReq := rfl

/-! ### withSreg -/

@[simp] theorem State.withSreg_cfg (s : State) (v : Byte) : (s.withSreg v).cfg = s.cfg := rfl
@[simp] theorem State.withSreg_rf (s : State) (v : Byte) : (s.withSreg v).rf = s.rf := rfl
@[simp] theorem State.withSreg_sreg (s : State) (v : Byte) : (s.withSreg v).sreg = v := rfl
@[simp] theorem State.withSreg_pc (s : State) (v : Byte) : (s.withSreg v).pc = s.pc := rfl
@[simp] theorem State.withSreg_engine (s : State) (v : Byte) : (s.withSreg v).engine = s.engine := rfl
@[simp] theorem State.withSreg_ifid (s : State) (v : Byte) : (s.withSreg v).ifid = s.ifid := rfl
@[simp] theorem State.withSreg_idex (s : State) (v : Byte) : (s.withSreg v).idex = s.idex := rfl
@[simp] theorem State.withSreg_exwb (s : State) (v : Byte) : (s.withSreg v).exwb = s.exwb := rfl
@[simp] theorem State.withSreg_imem (s : State) (v : Byte) : (s.withSreg v).imem = s.imem := rfl
@[simp] theorem State.withSreg_dmem (s : State) (v : Byte) : (s.withSreg v).dmem = s.dmem := rfl
@[simp] theorem State.withSreg_diag (s : State) (v : Byte) : (s.withSreg v).diag = s.diag := rfl
@[simp] theorem State.withSreg_stallIn (s : State) (v : Byte) : (s.withSreg v).stallIn = s.stallIn := rfl
@[simp] theorem State.withSreg_cycle (s : State) (v : Byte) : (s.withSreg v).cycle = s.cycle := rfl
@[simp] theorem State.withSreg_flushReq (s : State) (v : Byte) : (s.withSreg v).flushReq = s.flushReq := rfl

/-! ### withPc -/

@[simp] theorem State.withPc_cfg (s : State) (v : Word) : (s.withPc v).cfg = s.cfg := rfl
@[simp] theorem State.withPc_rf (s : State) (v : Word) : (s.withPc v).rf = s.rf := rfl
@[simp] theorem State.withPc_sreg (s : State) (v : Word) : (s.withPc v).sreg = s.sreg := rfl
@[simp] theorem State.withPc_pc (s : State) (v : Word) : (s.withPc v).pc = v := rfl
@[simp] theorem State.withPc_engine (s : State) (v : Word) : (s.withPc v).engine = s.engine := rfl
@[simp] theorem State.withPc_ifid (s : State) (v : Word) : (s.withPc v).ifid = s.ifid := rfl
@[simp] theorem State.withPc_idex (s : State) (v : Word) : (s.withPc v).idex = s.idex := rfl
@[simp] theorem State.withPc_exwb (s : State) (v : Word) : (s.withPc v).exwb = s.exwb := rfl
@[simp] theorem State.withPc_imem (s : State) (v : Word) : (s.withPc v).imem = s.imem := rfl
@[simp] theorem State.withPc_dmem (s : State) (v : Word) : (s.withPc v).dmem = s.dmem := rfl
@[simp] theorem State.withPc_diag (s : State) (v : Word) : (s.withPc v).diag = s.diag := rfl
@[simp] theorem State.withPc_stallIn (s : State) (v : Word) : (s.withPc v).stallIn = s.stallIn := rfl
@[simp] theorem State.withPc_cycle (s : State) (v : Word) : (s.withPc v).cycle = s.cycle := rfl
@[simp] theorem State.withPc_flushReq (s : State) (v : Word) : (s.withPc v).flushReq = s.flushReq := rfl

/-! ### withEngine -/

@[simp] theorem State.withEngine_cfg (s : State) (v : Engine) : (s.withEngine v).cfg = s.cfg := rfl
@[simp] theorem State.withEngine_rf (s : State) (v : Engine) : (s.withEngine v).rf = s.rf := rfl
@[simp] theorem State.withEngine_sreg (s : State) (v : Engine) : (s.withEngine v).sreg = s.sreg := rfl
@[simp] theorem State.withEngine_pc (s : State) (v : Engine) : (s.withEngine v).pc = s.pc := rfl
@[simp] theorem State.withEngine_engine (s : State) (v : Engine) : (s.withEngine v).engine = v := rfl
@[simp] theorem State.withEngine_ifid (s : State) (v : Engine) : (s.withEngine v).ifid = s.ifid := rfl
@[simp] theorem State.withEngine_idex (s : State) (v : Engine) : (s.withEngine v).idex = s.idex := rfl
@[simp] theorem State.withEngine_exwb (s : State) (v : Engine) : (s.withEngine v).exwb = s.exwb := rfl
@[simp] theorem State.withEngine_imem (s : State) (v : Engine) : (s.withEngine v).imem = s.imem := rfl
@[simp] theorem State.withEngine_dmem (s : State) (v : Engine) : (s.withEngine v).dmem = s.dmem := rfl
@[simp] theorem State.withEngine_diag (s : State) (v : Engine) : (s.withEngine v).diag = s.diag := rfl
@[simp] theorem State.withEngine_stallIn (s : State) (v : Engine) : (s.withEngine v).stallIn = s.stallIn := rfl
@[simp] theorem State.withEngine_cycle (s : State) (v : Engine) : (s.withEngine v).cycle = s.cycle := rfl
@[simp] theorem State.withEngine_flushReq (s : State) (v : Engine) : (s.withEngine v).flushReq = s.flushReq := rfl

/-! ### withIfId -/

@[simp] theorem State.withIfId_cfg (s : State) (v : IfId) : (s.withIfId v).cfg = s.cfg := rfl
@[simp] theorem State.withIfId_rf (s : State) (v : IfId) : (s.withIfId v).rf = s.rf := rfl
@[simp] theorem State.withIfId_sreg (s : State) (v : IfId) : (s.withIfId v).sreg = s.sreg := rfl
@[simp] theorem State.withIfId_pc (s : State) (v : IfId) : (s.withIfId v).pc = s.pc := rfl
@[simp] theorem State.withIfId_engine (s : State) (v : IfId) : (s.withIfId v).engine = s.engine := rfl
@[simp] theorem State.withIfId_ifid (s : State) (v : IfId) : (s.withIfId v).ifid = v := rfl
@[simp] theorem State.withIfId_idex (s : State) (v : IfId) : (s.withIfId v).idex = s.idex := rfl
@[simp] theorem State.withIfId_exwb (s : State) (v : IfId) : (s.withIfId v).exwb = s.exwb := rfl
@[simp] theorem State.withIfId_imem (s : State) (v : IfId) : (s.withIfId v).imem = s.imem := rfl
@[simp] theorem State.withIfId_dmem (s : State) (v : IfId) : (s.withIfId v).dmem = s.dmem := rfl
@[simp] theorem State.withIfId_diag (s : State) (v : IfId) : (s.withIfId v).diag = s.diag := rfl
@[simp] theorem State.withIfId_stallIn (s : State) (v : IfId) : (s.withIfId v).stallIn = s.stallIn := rfl
@[simp] theorem State.withIfId_cycle (s : State) (v : IfId) : (s.withIfId v).cycle = s.cycle := rfl
@[simp] theorem State.withIfId_flushReq (s : State) (v : IfId) : (s.withIfId v).flushReq = s.flushReq := rfl

/-! ### withIdEx -/

@[simp] theorem State.withIdEx_cfg (s : State) (v : IdEx) : (s.withIdEx v).cfg = s.cfg := rfl
@[simp] theorem State.withIdEx_rf (s : State) (v : IdEx) : (s.withIdEx v).rf = s.rf := rfl
@[simp] theorem State.withIdEx_sreg (s : State) (v : IdEx) : (s.withIdEx v).sreg = s.sreg := rfl
@[simp] theorem State.withIdEx_pc (s : State) (v : IdEx) : (s.withIdEx v).pc = s.pc := rfl
@[simp] theorem State.withIdEx_engine (s : State) (v : IdEx) : (s.withIdEx v).engine = s.engine := rfl
@[simp] theorem State.withIdEx_ifid (s : State) (v : IdEx) : (s.withIdEx v).ifid = s.ifid := rfl
@[simp] theorem State.withIdEx_idex (s : State) (v : IdEx) : (s.withIdEx v).idex = v := rfl
@[simp] theorem State.withIdEx_exwb (s : State) (v : IdEx) : (s.withIdEx v).exwb = s.exwb := rfl
@[simp] theorem State.withIdEx_imem (s : State) (v : IdEx) : (s.withIdEx v).imem = s.imem := rfl
@[simp] theorem State.withIdEx_dmem (s : State) (v : IdEx) : (s.withIdEx v).dmem = s.dmem := rfl
@[simp] theorem State.withIdEx_diag (s : State) (v : IdEx) : (s.withIdEx v).diag = s.diag := rfl
@[simp] theorem State.withIdEx_stallIn (s : State) (v : IdEx) : (s.withIdEx v).stallIn = s.stallIn := rfl
@[simp] theorem State.withIdEx_cycle (s : State) (v : IdEx) : (s.withIdEx v).cycle = s.cycle := rfl
@[simp] theorem State.withIdEx_flushReq (s : State) (v : IdEx) : (s.withIdEx v).flushReq = s.flushReq := rfl

/-! ### withExWb -/

@[simp] theorem State.withExWb_cfg (s : State) (v : ExWb) : (s.withExWb v).cfg = s.cfg := rfl
@[simp] theorem State.withExWb_rf (s : State) (v : ExWb) : (s.withExWb v).rf = s.rf := rfl
@[simp] theorem State.withExWb_sreg (s : State) (v : ExWb) : (s.withExWb v).sreg = s.sreg := rfl
@[simp] theorem State.withExWb_pc (s : State) (v : ExWb) : (s.withExWb v).pc = s.pc := rfl
@[simp] theorem State.withExWb_engine (s : State) (v : ExWb) : (s.withExWb v).engine = s.engine := rfl
@[simp] theorem State.withExWb_ifid (s : State) (v : ExWb) : (s.withExWb v).ifid = s.ifid := rfl
@[simp] theorem State.withExWb_idex (s : State) (v : ExWb) : (s.withExWb v).idex = s.idex := rfl
@[simp] theorem State.withExWb_exwb (s : State) (v : ExWb) : (s.withExWb v).exwb = v := rfl
@[simp] theorem State.withExWb_imem (s : State) (v : ExWb) : (s.withExWb v).imem = s.imem := rfl
@[simp] theorem State.withExWb_dmem (s : State) (v : ExWb) : (s.withExWb v).dmem = s.dmem := rfl
@[simp] theorem State.withExWb_diag (s : State) (v : ExWb) : (s.withExWb v).diag = s.diag := rfl
@[simp] theorem State.withExWb_stallIn (s : State) (v : ExWb) : (s.withExWb v).stallIn = s.stallIn := rfl
@[simp] theorem State.withExWb_cycle (s : State) (v : ExWb) : (s.withExWb v).cycle = s.cycle := rfl
@[simp] theorem State.withExWb_flushReq (s : State) (v : ExWb) : (s.withExWb v).flushReq = s.flushReq := rfl

/-! ### withImem -/

@[simp] theorem State.withImem_cfg (s : State) (v : List (Nat × Word)) : (s.withImem v).cfg = s.cfg := rfl
@[simp] theorem State.withImem_rf (s : State) (v : List (Nat × Word)) : (s.withImem v).rf = s.rf := rfl
@[simp] theorem State.withImem_sreg (s : State) (v : List (Nat × Word)) : (s.withImem v).sreg = s.sreg := rfl
@[simp] theorem State.withImem_pc (s : State) (v : List (Nat × Word)) : (s.withImem v).pc = s.pc := rfl
@[simp] theorem State.withImem_engine (s : State) (v : List (Nat × Word)) : (s.withImem v).engine = s.engine := rfl
@[simp] theorem State.withImem_ifid (s : State) (v : List (Nat × Word)) : (s.withImem v).ifid = s.ifid := rfl
@[simp] theorem State.withImem_idex (s : State) (v : List (Nat × Word)) : (s.withImem v).idex = s.idex := rfl
@[simp] theorem State.withImem_exwb (s : State) (v : List (Nat × Word)) : (s.withImem v).exwb = s.exwb := rfl
@[simp] theorem State.withImem_imem (s : State) (v : List (Nat × Word)) : (s.withImem v).imem = v := rfl
@[simp] theorem State.withImem_dmem (s : State) (v : List (Nat × Word)) : (s.withImem v).dmem = s.dmem := rfl
@[simp] theorem State.withImem_diag (s : State) (v : List (Nat × Word)) : (s.withImem v).diag = s.diag := rfl
@[simp] theorem State.withImem_stallIn (s : State) (v : List (Nat × Word)) : (s.withImem v).stallIn = s.stallIn := rfl
@[simp] theorem State.withImem_cycle (s : State) (v : List (Nat × Word)) : (s.withImem v).cycle = s.cycle := rfl
@[simp] theorem State.withImem_flushReq (s : State) (v : List (Nat × Word)) : (s.withImem v).flushReq = s.flushReq := rfl

/-! ### withDmem -/

@[simp] theorem State.withDmem_cfg (s : State) (v : List Host.Cell) : (s.withDmem v).cfg = s.cfg := rfl
@[simp] theorem State.withDmem_rf (s : State) (v : List Host.Cell) : (s.withDmem v).rf = s.rf := rfl
@[simp] theorem State.withDmem_sreg (s : State) (v : List Host.Cell) : (s.withDmem v).sreg = s.sreg := rfl
@[simp] theorem State.withDmem_pc (s : State) (v : List Host.Cell) : (s.withDmem v).pc = s.pc := rfl
@[simp] theorem State.withDmem_engine (s : State) (v : List Host.Cell) : (s.withDmem v).engine = s.engine := rfl
@[simp] theorem State.withDmem_ifid (s : State) (v : List Host.Cell) : (s.withDmem v).ifid = s.ifid := rfl
@[simp] theorem State.withDmem_idex (s : State) (v : List Host.Cell) : (s.withDmem v).idex = s.idex := rfl
@[simp] theorem State.withDmem_exwb (s : State) (v : List Host.Cell) : (s.withDmem v).exwb = s.exwb := rfl
@[simp] theorem State.withDmem_imem (s : State) (v : List Host.Cell) : (s.withDmem v).imem = s.imem := rfl
@[simp] theorem State.withDmem_dmem (s : State) (v : List Host.Cell) : (s.withDmem v).dmem = v := rfl
@[simp] theorem State.withDmem_diag (s : State) (v : List Host.Cell) : (s.withDmem v).diag = s.diag := rfl
@[simp] theorem State.withDmem_stallIn (s : State) (v : List Host.Cell) : (s.withDmem v).stallIn = s.stallIn := rfl
@[simp] theorem State.withDmem_cycle (s : State) (v : List Host.Cell) : (s.withDmem v).cycle = s.cycle := rfl
@[simp] theorem State.withDmem_flushReq (s : State) (v : List Host.Cell) : (s.withDmem v).flushReq = s.flushReq := rfl

/-! ### withStallIn -/

@[simp] theorem State.withStallIn_cfg (s : State) (v : List Bool) : (s.withStallIn v).cfg = s.cfg := rfl
@[simp] theorem State.withStallIn_rf (s : State) (v : List Bool) : (s.withStallIn v).rf = s.rf := rfl
@[simp] theorem State.withStallIn_sreg (s : State) (v : List Bool) : (s.withStallIn v).sreg = s.sreg := rfl
@[simp] theorem State.withStallIn_pc (s : State) (v : List Bool) : (s.withStallIn v).pc = s.pc := rfl
@[simp] theorem State.withStallIn_engine (s : State) (v : List Bool) : (s.withStallIn v).engine = s.engine := rfl
@[simp] theorem State.withStallIn_ifid (s : State) (v : List Bool) : (s.withStallIn v).ifid = s.ifid := rfl
@[simp] theorem State.withStallIn_idex (s : State) (v : List Bool) : (s.withStallIn v).idex = s.idex := rfl
@[simp] theorem State.withStallIn_exwb (s : State) (v : List Bool) : (s.withStallIn v).exwb = s.exwb := rfl
@[simp] theorem State.withStallIn_imem (s : State) (v : List Bool) : (s.withStallIn v).imem = s.imem := rfl
@[simp] theorem State.withStallIn_dmem (s : State) (v : List Bool) : (s.withStallIn v).dmem = s.dmem := rfl
@[simp] theorem State.withStallIn_diag (s : State) (v : List Bool) : (s.withStallIn v).diag = s.diag := rfl
@[simp] theorem State.withStallIn_stallIn (s : State) (v : List Bool) : (s.withStallIn v).stallIn = v := rfl
@[simp] theorem State.withStallIn_cycle (s : State) (v : List Bool) : (s.withStallIn v).cycle = s.cycle := rfl
@[simp] theorem State.withStallIn_flushReq (s : State) (v : List Bool) : (s.withStallIn v).flushReq = s.flushReq := rfl

/-! ### withCycle -/

@[simp] theorem State.withCycle_cfg (s : State) (v : Nat) : (s.withCycle v).cfg = s.cfg := rfl
@[simp] theorem State.withCycle_rf (s : State) (v : Nat) : (s.withCycle v).rf = s.rf := rfl
@[simp] theorem State.withCycle_sreg (s : State) (v : Nat) : (s.withCycle v).sreg = s.sreg := rfl
@[simp] theorem State.withCycle_pc (s : State) (v : Nat) : (s.withCycle v).pc = s.pc := rfl
@[simp] theorem State.withCycle_engine (s : State) (v : Nat) : (s.withCycle v).engine = s.engine := rfl
@[simp] theorem State.withCycle_ifid (s : State) (v : Nat) : (s.withCycle v).ifid = s.ifid := rfl
@[simp] theorem State.withCycle_idex (s : State) (v : Nat) : (s.withCycle v).idex = s.idex := rfl
@[simp] theorem State.withCycle_exwb (s : State) (v : Nat) : (s.withCycle v).exwb = s.exwb := rfl
@[simp] theorem State.withCycle_imem (s : State) (v : Nat) : (s.withCycle v).imem = s.imem := rfl
@[simp] theorem State.withCycle_dmem (s : State) (v : Nat) : (s.withCycle v).dmem = s.dmem := rfl
@[simp] theorem State.withCycle_diag (s : State) (v : Nat) : (s.withCycle v).diag = s.diag := rfl
@[simp] theorem State.withCycle_stallIn (s : State) (v : Nat) : (s.withCycle v).stallIn = s.stallIn := rfl
@[simp] theorem State.withCycle_cycle (s : State) (v : Nat) : (s.withCycle v).cycle = v := rfl
@[simp] theorem State.withCycle_flushReq (s : State) (v : Nat) : (s.withCycle v).flushReq = s.flushReq := rfl

/-! ### withFlushReq -/

@[simp] theorem State.withFlushReq_cfg (s : State) (v : Option Word) : (s.withFlushReq v).cfg = s.cfg := rfl
@[simp] theorem State.withFlushReq_rf (s : State) (v : Option Word) : (s.withFlushReq v).rf = s.rf := rfl
@[simp] theorem State.withFlushReq_sreg (s : State) (v : Option Word) : (s.withFlushReq v).sreg = s.sreg := rfl
@[simp] theorem State.withFlushReq_pc (s : State) (v : Option Word) : (s.withFlushReq v).pc = s.pc := rfl
@[simp] theorem State.withFlushReq_engine (s : State) (v : Option Word) : (s.withFlushReq v).engine = s.engine := rfl
@[simp] theorem State.withFlushReq_ifid (s : State) (v : Option Word) : (s.withFlushReq v).ifid = s.ifid := rfl
@[simp] theorem State.withFlushReq_idex (s : State) (v : Option Word) : (s.withFlushReq v).idex = s.idex := rfl
@[simp] theorem State.withFlushReq_exwb (s : State) (v : Option Word) : (s.withFlushReq v).exwb = s.exwb := rfl
@[simp] theorem State.withFlushReq_imem (s : State) (v : Option Word) : (s.withFlushReq v).imem = s.imem := rfl
@[simp] theorem State.withFlushReq_dmem (s : State) (v : Option Word) : (s.withFlushReq v).dmem = s.dmem := rfl
@[simp] theorem State.withFlushReq_diag (s : State) (v : Option Word) : (s.withFlushReq v).diag = s.diag := rfl
@[simp] theorem State.withFlushReq_stallIn (s : State) (v : Option Word) : (s.withFlushReq v).stallIn = s.stallIn := rfl
@[simp] theorem State.withFlushReq_cycle (s : State) (v : Option Word) : (s.withFlushReq v).cycle = s.cycle := rfl
@[simp] theorem State.withFlushReq_flushReq (s : State) (v : Option Word) : (s.withFlushReq v).flushReq = v := rfl

/-! ### withCfg -/

@[simp] theorem State.withCfg_cfg (s : State) (v : Config) : (s.withCfg v).cfg = v := rfl
@[simp] theorem State.withCfg_rf (s : State) (v : Config) : (s.withCfg v).rf = s.rf := rfl
@[simp] theorem State.withCfg_sreg (s : State) (v : Config) : (s.withCfg v).sreg = s.sreg := rfl
@[simp] theorem State.withCfg_pc (s : State) (v : Config) : (s.withCfg v).pc = s.pc := rfl
@[simp] theorem State.withCfg_engine (s : State) (v : Config) : (s.withCfg v).engine = s.engine := rfl
@[simp] theorem State.withCfg_ifid (s : State) (v : Config) : (s.withCfg v).ifid = s.ifid := rfl
@[simp] theorem State.withCfg_idex (s : State) (v : Config) : (s.withCfg v).idex = s.idex := rfl
@[simp] theorem State.withCfg_exwb (s : State) (v : Config) : (s.withCfg v).exwb = s.exwb := rfl
@[simp] theorem State.withCfg_imem (s : State) (v : Config) : (s.withCfg v).imem = s.imem := rfl
@[simp] theorem State.withCfg_dmem (s : State) (v : Config) : (s.withCfg v).dmem = s.dmem := rfl
@[simp] theorem State.withCfg_diag (s : State) (v : Config) : (s.withCfg v).diag = s.diag := rfl
@[simp] theorem State.withCfg_stallIn (s : State) (v : Config) : (s.withCfg v).stallIn = s.stallIn := rfl
@[simp] theorem State.withCfg_cycle (s : State) (v : Config) : (s.withCfg v).cycle = s.cycle := rfl
@[simp] theorem State.withCfg_flushReq (s : State) (v : Config) : (s.withCfg v).flushReq = s.flushReq := rfl

/-! ### log -/

@[simp] theorem State.log_cfg (s : State) (v : Event) : (s.log v).cfg = s.cfg := rfl
@[simp] theorem State.log_rf (s : State) (v : Event) : (s.log v).rf = s.rf := rfl
@[simp] theorem State.log_sreg (s : State) (v : Event) : (s.log v).sreg = s.sreg := rfl
@[simp] theorem State.log_pc (s : State) (v : Event) : (s.log v).pc = s.pc := rfl
@[simp] theorem State.log_engine (s : State) (v : Event) : (s.log v).engine = s.engine := rfl
@[simp] theorem State.log_ifid (s : State) (v : Event) : (s.log v).ifid = s.ifid := rfl
@[simp] theorem State.log_idex (s : State) (v : Event) : (s.log v).idex = s.idex := rfl
@[simp] theorem State.log_exwb (s : State) (v : Event) : (s.log v).exwb = s.exwb := rfl
@[simp] theorem State.log_imem (s : State) (v : Event) : (s.log v).imem = s.imem := rfl
@[simp] theorem State.log_dmem (s : State) (v : Event) : (s.log v).dmem = s.dmem := rfl
@[simp] theorem State.log_diag (s : State) (v : Event) : (s.log v).diag = s.diag ++ [v] := rfl
@[simp] theorem State.log_stallIn (s : State) (v : Event) : (s.log v).stallIn = s.stallIn := rfl
@[simp] theorem State.log_cycle (s : State) (v : Event) : (s.log v).cycle = s.cycle := rfl
@[simp] theorem State.log_flushReq (s : State) (v : Event) : (s.log v).flushReq = s.flushReq := rfl

/-! ### raise -/

@[simp] theorem State.raise_cfg (s : State) (v : Diag) : (s.raise v).cfg = s.cfg := rfl
@[simp] theorem State.raise_rf (s : State) (v : Diag) : (s.raise v).rf = s.rf := rfl
@[simp] theorem State.raise_sreg (s : State) (v : Diag) : (s.raise v).sreg = s.sreg := rfl
@[simp] theorem State.raise_pc (s : State) (v : Diag) : (s.raise v).pc = s.pc := rfl
@[simp] theorem State.raise_engine (s : State) (v : Diag) : (s.raise v).engine = s.engine := rfl
@[simp] theorem State.raise_ifid (s : State) (v : Diag) : (s.raise v).ifid = s.ifid := rfl
@[simp] theorem State.raise_idex (s : State) (v : Diag) : (s.raise v).idex = s.idex := rfl
@[simp] theorem State.raise_exwb (s : State) (v : Diag) : (s.raise v).exwb = s.exwb := rfl
@[simp] theorem State.raise_imem (s : State) (v : Diag) : (s.raise v).imem = s.imem := rfl
@[simp] theorem State.raise_dmem (s : State) (v : Diag) : (s.raise v).dmem = s.dmem := rfl
@[simp] theorem State.raise_diag (s : State) (v : Diag) : (s.raise v).diag = s.diag ++ [⟨.cycle s.cycle, v⟩] := rfl
@[simp] theorem State.raise_stallIn (s : State) (v : Diag) : (s.raise v).stallIn = s.stallIn := rfl
@[simp] theorem State.raise_cycle (s : State) (v : Diag) : (s.raise v).cycle = s.cycle := rfl
@[simp] theorem State.raise_flushReq (s : State) (v : Diag) : (s.raise v).flushReq = s.flushReq := rfl

/-! ### setReg: only the register file, whatever R0_ZERO is -/

@[simp] theorem State.setReg_cfg (s : State) (i : RegIdx) (v : Byte) : (s.setReg i v).cfg = s.cfg := rfl
@[simp] theorem State.setReg_sreg (s : State) (i : RegIdx) (v : Byte) : (s.setReg i v).sreg = s.sreg := rfl
@[simp] theorem State.setReg_pc (s : State) (i : RegIdx) (v : Byte) : (s.setReg i v).pc = s.pc := rfl
@[simp] theorem State.setReg_engine (s : State) (i : RegIdx) (v : Byte) : (s.setReg i v).engine = s.engine := rfl
@[simp] theorem State.setReg_ifid (s : State) (i : RegIdx) (v : Byte) : (s.setReg i v).ifid = s.ifid := rfl
@[simp] theorem State.setReg_idex (s : State) (i : RegIdx) (v : Byte) : (s.setReg i v).idex = s.idex := rfl
@[simp] theorem State.setReg_exwb (s : State) (i : RegIdx) (v : Byte) : (s.setReg i v).exwb = s.exwb := rfl
@[simp] theorem State.setReg_imem (s : State) (i : RegIdx) (v : Byte) : (s.setReg i v).imem = s.imem := rfl
@[simp] theorem State.setReg_dmem (s : State) (i : RegIdx) (v : Byte) : (s.setReg i v).dmem = s.dmem := rfl
@[simp] theorem State.setReg_diag (s : State) (i : RegIdx) (v : Byte) : (s.setReg i v).diag = s.diag := rfl
@[simp] theorem State.setReg_stallIn (s : State) (i : RegIdx) (v : Byte) : (s.setReg i v).stallIn = s.stallIn := rfl
@[simp] theorem State.setReg_cycle (s : State) (i : RegIdx) (v : Byte) : (s.setReg i v).cycle = s.cycle := rfl
@[simp] theorem State.setReg_flushReq (s : State) (i : RegIdx) (v : Byte) : (s.setReg i v).flushReq = s.flushReq := rfl

end Sys2Proof.Machine
end

