-- ==== Sys2Proof/Laws/Ops.lean ====
section
/-! SUPPORT. For each shared operation, once, everything it can do. -/

namespace Sys2Proof.Machine

/-! ### Outcomes -/

@[simp] theorem andThen_next (s : State) (f : State → Host.Outcome State Fault Refusal) :
    andThen (.next s) f = f s := rfl

/-- A chain that ends in a next state passed through one. -/
theorem andThen_eq_next {o : Host.Outcome State Fault Refusal} {f : State → Host.Outcome State Fault Refusal}
    {t : State} (h : andThen o f = .next t) : ∃ s, o = .next s ∧ f s = .next t := by
  cases o with
  | next s => exact ⟨s, rfl, h⟩
  | fault r => cases h
  | refused r => cases h

/-! ### Registers -/

/-- A write to a hard-wired register 0 is discarded. -/
theorem setReg_discarded {s : State} {i : RegIdx} (h : s.cfg.r0Zero = true ∧ i = 0) (v : Byte) :
    s.setReg i v = s := by
  unfold State.setReg
  rw [if_pos (by simpa using h)]
  rfl

/-- Any other write sets the cell. -/
theorem setReg_kept {s : State} {i : RegIdx} (h : ¬(s.cfg.r0Zero = true ∧ i = 0)) (v : Byte) :
    s.setReg i v = s.withRf (s.rf.set i.toNat v) := by
  unfold State.setReg
  rw [if_neg (by simpa using h)]

/-- Reading a register just written: the value, except in a hard-wired register 0. -/
theorem reg_setReg (s : State) (i j : RegIdx) (v : Byte) :
    (s.setReg i v).reg j = if i = j ∧ ¬(s.cfg.r0Zero = true ∧ i = 0) then v else s.reg j := by
  by_cases h : s.cfg.r0Zero = true ∧ i = 0
  · rw [setReg_discarded h, if_neg (fun hc => hc.2 h)]
  · rw [setReg_kept h]
    change (if (s.cfg.r0Zero && decide (j = 0)) = true then (0x00 : Byte)
      else (s.rf.set i.toNat v)[j.toNat]) = _
    by_cases hij : i = j
    · subst hij
      rw [if_pos (show i = i ∧ ¬(s.cfg.r0Zero = true ∧ i = 0) from ⟨rfl, h⟩), if_neg (by simpa using h)]
      exact Vector.getElem_set_self _
    · have hn : ¬ i.toNat = j.toNat := fun hc => hij (BitVec.eq_of_toNat_eq hc)
      rw [if_neg (show ¬(i = j ∧ ¬(s.cfg.r0Zero = true ∧ i = 0)) from fun hc => hij hc.1),
        Vector.getElem_set_ne _ _ hn]
      rfl

/-- A register read depends on the configuration and the register file alone. -/
theorem reg_congr {s t : State} (hc : t.cfg = s.cfg) (hr : t.rf = s.rf) (i : RegIdx) : t.reg i = s.reg i := by
  unfold State.reg; rw [hc, hr]

/-- A register write changes the register file alone. -/
theorem setReg_eq (s : State) (i : RegIdx) (v : Byte) : s.setReg i v = s.withRf (s.setReg i v).rf := rfl

/-! ### The ALU class, redirects -/

/-- EX of an ALU-class instruction writes SREG and EX/WB alone. -/
theorem aluToWb_eq (tag : Tag) (op : AluOp) (rd : RegIdx) (b : Byte) (s : State) :
    aluToWb tag op rd b s =
      { s with
        sreg := setFlags s.sreg (alu op (s.reg rd) b).r (alu op (s.reg rd) b).c (alu op (s.reg rd) b).v
        exwb := ⟨true, tag, (alu op (s.reg rd) b).r, rd, .none, 0⟩ } := rfl

/-- A redirect either asks for a flush to a target inside IMEM or appends one diagnostic. -/
theorem redirect_cases (target : Int) (s : State) :
    (0 ≤ target ∧ target < 1024 ∧ redirect target s = { s with flushReq := some (BitVec.ofInt 16 target) }) ∨
      (¬(0 ≤ target ∧ target < 1024) ∧
        redirect target s =
          { s with diag := s.diag ++ [⟨.cycle s.cycle, .branchTargetOob s.idex.pc target⟩] }) := by
  unfold redirect
  by_cases h : 0 ≤ target ∧ target < (imemWords : Int)
  · rw [if_pos h]
    exact .inl ⟨h.1, h.2, rfl⟩
  · rw [if_neg h]
    exact .inr ⟨h, rfl⟩

/-- A redirect target inside IMEM, as a pc. -/
theorem toNat_target {target : Int} (h0 : 0 ≤ target) (h1 : target < 1024) :
    ((BitVec.ofInt 16 target).toNat : Int) = target := by
  rw [BitVec.toNat_ofInt]; omega

/-! ### Stages -/

@[simp] theorem bubbleIfId_valid (n : Nat) : (bubbleIfId n).valid = false := rfl
@[simp] theorem bubbleIdEx_valid (n : Nat) : (bubbleIdEx n).valid = false := rfl
@[simp] theorem bubbleExWb_valid (n : Nat) : (bubbleExWb n).valid = false := rfl
@[simp] theorem decodeIdEx_valid (c : Config) (w pc : Word) : (decodeIdEx c w pc).valid = true := rfl

/-- WB changes the register file alone. -/
theorem writeBack_eq (s : State) : writeBack s = s.withRf (writeBack s).rf := rfl

theorem applyFlush_none {s : State} (h : s.flushReq = none) : applyFlush s = s := by
  unfold applyFlush; rw [h]

theorem applyFlush_some {s : State} {t : Word} (h : s.flushReq = some t) :
    applyFlush s =
      { s with
        ifid := bubbleIfId s.cycle, idex := bubbleIdEx s.cycle, pc := t
        engine := afterFlush s.engine, flushReq := none } := by
  unfold applyFlush; rw [h]

/-- IF withholds the fetch, reads the sentinel, or fetches one word. -/
theorem fetchStage_cases (s : State) :
    ((s.engine ≠ .running ∨ stalled s = true) ∧
        fetchStage s = .next { s with ifid := bubbleIfId s.cycle }) ∨
      (s.engine = .running ∧ stalled s = false ∧ (iFetch s.pc s).1 = haltWord ∧
        fetchStage s =
          .next { (iFetch s.pc s).2 with engine := .draining, ifid := bubbleIfId (iFetch s.pc s).2.cycle }) ∨
      (s.engine = .running ∧ stalled s = false ∧ s.pc.toNat < 1024 ∧ readCell s.imem s.pc.toNat ≠ haltWord ∧
        fetchStage s =
          .next { s with ifid := ⟨true, readCell s.imem s.pc.toNat, s.pc⟩, pc := s.pc + 1 }) := by
  by_cases h : s.engine ≠ .running ∨ stalled s = true
  · refine .inl ⟨h, ?_⟩
    unfold fetchStage
    rw [if_pos h]
    rfl
  · have he : s.engine = .running := by
      by_contra hc
      exact h (.inl hc)
    have hs : stalled s = false := by
      cases hst : stalled s
      · rfl
      · exact absurd (.inr hst) h
    by_cases hw : (iFetch s.pc s).1 = haltWord
    · refine .inr (.inl ⟨he, hs, hw, ?_⟩)
      unfold fetchStage
      rw [if_neg h]
      simp only [hw, if_true]
      rfl
    · have hpc : s.pc.toNat < 1024 := by
        by_contra hc
        apply hw
        unfold iFetch
        rw [if_neg (by simpa [imemWords] using hc)]
      have hf : iFetch s.pc s = (readCell s.imem s.pc.toNat, s) := by
        unfold iFetch
        rw [if_pos (by simpa [imemWords] using hpc)]
      refine .inr (.inr ⟨he, hs, hpc, by simpa [hf] using hw, ?_⟩)
      unfold fetchStage
      rw [if_neg h]
      simp only [hf]
      rw [if_neg (by simpa [hf] using hw)]
      rfl

/-- A fetch changes DIAG alone, and DIAG only outside IMEM. -/
theorem iFetch_eq (a : Word) (s : State) :
    (a.toNat < 1024 ∧ iFetch a s = (readCell s.imem a.toNat, s)) ∨
      (1024 ≤ a.toNat ∧
        iFetch a s = (haltWord, { s with diag := s.diag ++ [⟨.cycle s.cycle, .imemFetchOob a⟩] })) := by
  unfold iFetch
  by_cases h : a.toNat < imemWords
  · rw [if_pos h]
    exact .inl ⟨h, rfl⟩
  · rw [if_neg h]
    exact .inr ⟨Nat.le_of_not_lt h, rfl⟩

/-- Halt detection changes the engine state alone, and only from DRAINING with an empty pipeline. -/
theorem detectHalt_cases (s : State) :
    (s.engine = .draining ∧ s.ifid.valid = false ∧ s.idex.valid = false ∧ s.exwb.valid = false ∧
        detectHalt s = { s with engine := .halted }) ∨
      (¬(s.engine = .draining ∧ s.ifid.valid = false ∧ s.idex.valid = false ∧ s.exwb.valid = false) ∧
        detectHalt s = s) := by
  unfold detectHalt
  by_cases h : s.engine = .draining ∧ s.ifid.valid = false ∧ s.idex.valid = false ∧ s.exwb.valid = false
  · rw [if_pos h]
    exact .inl ⟨h.1, h.2.1, h.2.2.1, h.2.2.2, rfl⟩
  · rw [if_neg h]
    exact .inr ⟨h, rfl⟩

/-! ### Host accesses keep the memories' form -/

theorem hostWriteInstr_wf (a : Nat) (w : Word) (s : State) (h : Memory.wf imemWords s.imem = true) :
    Memory.wf imemWords (hostWriteInstr a w s).imem = true := by
  unfold hostWriteInstr
  split
  · rename_i ha
    exact wf_writeCell imemWords s.imem h a ha w
  · exact h

theorem loadFrom_wf (program : List Word) (a : Nat) (s : State) (h : Memory.wf imemWords s.imem = true) :
    Memory.wf imemWords (loadFrom a program s).imem = true := by
  induction program generalizing a s with
  | nil => exact hostWriteInstr_wf a haltWord s h
  | cons w rest ih => exact ih (a + 1) _ (hostWriteInstr_wf a w s h)

theorem loadAtPc_wf (w : Word) (s : State) (h : Memory.wf imemWords s.imem = true) :
    Memory.wf imemWords (loadAtPc w s).imem = true := by
  unfold loadAtPc
  split
  · rename_i ha
    exact wf_writeCell imemWords s.imem h _ ha w
  · exact h

end Sys2Proof.Machine
end

