-- ==== Sys2Proof/Laws/Step.lean ====
section
/-! SUPPORT. Once, everything EX, IF and a whole step can do, in closed form; later proofs split these
forms and do not unfold the stages again. -/

namespace Sys2Proof.Machine

/-! ### Data addresses are in range (20_memory.md R69) -/

theorem dataAddr_toNat (f : BitVec 6) : (dataAddr f).toNat = f.toNat := by
  unfold dataAddr
  rw [BitVec.toNat_setWidth]
  omega

theorem dataAddr_lt (f : BitVec 6) : (dataAddr f).toNat < dmemBytes := by
  rw [dataAddr_toNat]
  exact Nat.lt_of_lt_of_le f.isLt (by decide)

theorem memRead_dataAddr (t : Stamp) (f : BitVec 6) (s : State) :
    memRead t (dataAddr f).toNat s = (readCell s.dmem (dataAddr f).toNat, s) := if_pos (dataAddr_lt f)

theorem memWrite_dataAddr (t : Stamp) (f : BitVec 6) (v : Byte) (s : State) :
    memWrite t (dataAddr f).toNat v s = s.withDmem (writeCell s.dmem (dataAddr f).toNat v) :=
  if_pos (dataAddr_lt f)

/-! ### EX -/

/-- What one EX leaves: SREG, data memory, the diagnostics raised, EX/WB and a redirect. -/
structure ExEffect where
  sreg : Byte
  dmem : List Host.Cell
  raised : List Diag
  exwb : ExWb
  redirect : Option Word

/-- Diagnostics with the stamp of a cycle. -/
def stamped (n : Nat) (l : List Diag) : List Event := l.map fun d => { stamp := .cycle n, diag := d }

/-- An effect on a state; a redirect asked for before stays if there is no new one. -/
def ExEffect.on (f : ExEffect) (s : State) : State :=
  { s with
    sreg := f.sreg
    dmem := f.dmem
    diag := s.diag ++ stamped s.cycle f.raised
    exwb := f.exwb
    flushReq := f.redirect.orElse fun _ => s.flushReq }

/-- The effect of an ALU-class instruction. -/
def aluEffect (tag : Tag) (op : AluOp) (rd : RegIdx) (a b sreg : Byte) (dmem : List Host.Cell) : ExEffect :=
  { sreg := setFlags sreg (alu op a b).r (alu op a b).c (alu op a b).v
    dmem := dmem
    raised := []
    exwb := ⟨true, tag, (alu op a b).r, rd, .none, 0⟩
    redirect := none }

/-- A target inside IMEM is a redirect, any other one diagnostic. -/
def redirectEffect (target : Int) (pc : Word) : List Diag × Option Word :=
  if 0 ≤ target ∧ target < 1024 then ([], some (BitVec.ofInt 16 target)) else ([.branchTargetOob pc target], none)

/-- The effect of an instruction other than HALT on the registers `x`, SREG, data memory and its address. -/
def exEffect (i : Instr) (x : RegIdx → Byte) (sreg : Byte) (dmem : List Host.Cell) (pc : Word) : ExEffect :=
  match i with
  | .add d r => aluEffect .add .add d (x d) (x r) sreg dmem
  | .sub d r => aluEffect .sub .sub d (x d) (x r) sreg dmem
  | .mul d r => aluEffect .mul .mul d (x d) (x r) sreg dmem
  | .xor d r => aluEffect .xor .xor d (x d) (x r) sreg dmem
  | .andi d b => aluEffect .andi .and d (x d) b sreg dmem
  | .sll d k => aluEffect .sll .sll d (x d) k sreg dmem
  | .sra d k => aluEffect .sra .sra d (x d) k sreg dmem
  | .load d a =>
    ⟨sreg, dmem, [], ⟨true, .load, readCell dmem (dataAddr a).toNat, d, .load, dataAddr a⟩, none⟩
  | .store r a =>
    ⟨sreg, writeCell dmem (dataAddr a).toNat (x r), [], ⟨true, .store, x r, r, .store, dataAddr a⟩, none⟩
  | .beqz r d =>
    if x r = 0x00 then
      ⟨sreg, dmem, (redirectEffect (branchTarget pc d) pc).1, idleExWb .beqz r,
        (redirectEffect (branchTarget pc d) pc).2⟩
    else ⟨sreg, dmem, [], idleExWb .beqz r, none⟩
  | .jr h l =>
    ⟨sreg, dmem, (redirectEffect (jumpTarget (x h) (x l)) pc).1, idleExWb .jr h,
      (redirectEffect (jumpTarget (x h) (x l)) pc).2⟩
  | .movi d b => ⟨sreg, dmem, [], ⟨true, .movi, b, d, .none, 0⟩, none⟩
  | .halt => ⟨sreg, dmem, [], idleExWb .unknown 0, none⟩
  | .unknown o a b => ⟨sreg, dmem, [.unknownOpcode pc (encodeFields o a b)], idleExWb .unknown a, none⟩

theorem redirect_eq (target : Int) (s : State) :
    redirect target s =
      { s with
        diag := s.diag ++ stamped s.cycle (redirectEffect target s.idex.pc).1
        flushReq := (redirectEffect target s.idex.pc).2.orElse fun _ => s.flushReq } := by
  rcases redirect_cases target s with ⟨h0, h1, h⟩ | ⟨hn, h⟩
  · rw [h]
    simp [redirectEffect, h0, h1, stamped]
  · rw [h]
    unfold redirectEffect
    rw [if_neg hn]
    simp [stamped]

/-- `exec` of every instruction but HALT, in closed form. -/
theorem exec_eq {i : Instr} (s : State) (hi : i ≠ .halt) :
    exec i s = .next ((exEffect i s.reg s.sreg s.dmem s.idex.pc).on s) := by
  cases i with
  | halt => exact absurd rfl hi
  | load d a =>
    simp only [exec, execLoad, memRead_dataAddr, exEffect, ExEffect.on]
    simp [State.withExWb, stamped]
  | store r a =>
    simp only [exec, execStore, memWrite_dataAddr, exEffect, ExEffect.on]
    simp [State.withExWb, State.withDmem, stamped]
  | beqz r d =>
    simp only [exec, execBeqz, exEffect, ExEffect.on, redirect_eq]
    split <;> simp [State.withExWb, stamped]
  | jr h l =>
    simp only [exec, execJr, redirect_eq, exEffect, ExEffect.on]
    simp [State.withExWb]
  | unknown o a b =>
    simp only [exec, execUnknown, exEffect, ExEffect.on]
    simp [State.withExWb, State.raise, State.log, stamped]
  | movi d b =>
    simp only [exec, execMovi, exEffect, ExEffect.on]
    simp [State.withExWb, stamped]
  | add d r =>
    simp only [exec, execAdd, aluToWb_eq, exEffect, ExEffect.on, aluEffect]
    simp [stamped]
  | sub d r =>
    simp only [exec, execSub, aluToWb_eq, exEffect, ExEffect.on, aluEffect]
    simp [stamped]
  | mul d r =>
    simp only [exec, execMul, aluToWb_eq, exEffect, ExEffect.on, aluEffect]
    simp [stamped]
  | xor d r =>
    simp only [exec, execXor, aluToWb_eq, exEffect, ExEffect.on, aluEffect]
    simp [stamped]
  | andi d b =>
    simp only [exec, execAndi, aluToWb_eq, exEffect, ExEffect.on, aluEffect]
    simp [stamped]
  | sll d k =>
    simp only [exec, execSll, aluToWb_eq, exEffect, ExEffect.on, aluEffect]
    simp [stamped]
  | sra d k =>
    simp only [exec, execSra, aluToWb_eq, exEffect, ExEffect.on, aluEffect]
    simp [stamped]

/-- The effect of the EX stage: the instruction in ID/EX, or a bubble. -/
def stageEffect (s : State) : ExEffect :=
  if s.idex.valid then exEffect s.idex.instr s.reg s.sreg s.dmem s.idex.pc
  else ⟨s.sreg, s.dmem, [], bubbleExWb s.cycle, none⟩

theorem executeStage_eq (s : State) : executeStage s = .next ((stageEffect s).on s) := by
  unfold executeStage stageEffect
  split
  · exact exec_eq s (IdEx.instr_ne_halt _)
  · simp [ExEffect.on, State.withExWb, stamped]

/-- A redirect stays inside IMEM and comes from a valid ID/EX. -/
theorem stageEffect_redirect {s : State} {target : Word} (h : (stageEffect s).redirect = some target) :
    target.toNat < 1024 ∧ s.idex.valid = true ∧ (s.idex.tag = .beqz ∨ s.idex.tag = .jr) := by
  have key : ∀ x p, (redirectEffect x p).2 = some target → target.toNat < 1024 := by
    intro x p hx
    unfold redirectEffect at hx
    split at hx
    · rename_i hr
      have := toNat_target hr.1 hr.2
      cases hx
      omega
    · cases hx
  unfold stageEffect at h
  split at h
  · rename_i hv
    unfold IdEx.instr at h
    refine ⟨?_, hv, ?_⟩
    · cases ht : s.idex.tag <;> simp only [ht, exEffect, aluEffect, reduceCtorEq] at h
      · split at h
        · exact key _ _ h
        · cases h
      · exact key _ _ h
    · cases ht : s.idex.tag <;> simp [ht, exEffect, aluEffect] at h ⊢
  · cases h

/-! ### IF -/

/-- What one IF leaves: IF/ID, the pc, the engine state and the diagnostics raised. -/
structure IfEffect where
  ifid : IfId
  pc : Word
  engine : Engine
  raised : List Diag

/-- The effect of the IF stage of cycle `n`. -/
def fetchEffect (s : State) (n : Nat) : IfEffect :=
  if s.engine ≠ .running ∨ stalled s = true then ⟨bubbleIfId n, s.pc, s.engine, []⟩
  else if s.pc.toNat < 1024 then
    if readCell s.imem s.pc.toNat = haltWord then ⟨bubbleIfId n, s.pc, .draining, []⟩
    else ⟨⟨true, readCell s.imem s.pc.toNat, s.pc⟩, s.pc + 1, s.engine, []⟩
  else ⟨bubbleIfId n, s.pc, .draining, [.imemFetchOob s.pc]⟩

theorem fetchStage_eq (s : State) :
    fetchStage s =
      .next
        { s with
          ifid := (fetchEffect s s.cycle).ifid
          pc := (fetchEffect s s.cycle).pc
          engine := (fetchEffect s s.cycle).engine
          diag := s.diag ++ stamped s.cycle (fetchEffect s s.cycle).raised } := by
  rcases fetchStage_cases s with ⟨h, e⟩ | ⟨a, b, c, e⟩ | ⟨a, b, c, d, e⟩
  · rw [e]
    simp [fetchEffect, h, stamped]
  · rcases iFetch_eq s.pc s with ⟨hp, hf⟩ | ⟨hp, hf⟩
    · rw [hf] at c
      simp only at c
      rw [e, hf]
      simp [fetchEffect, a, b, hp, c, stamped]
    · have hp' : ¬ s.pc.toNat < 1024 := by omega
      rw [e, hf]
      simp [fetchEffect, a, b, hp', stamped]
  · rw [e]
    simp [fetchEffect, a, b, c, d, stamped]

/-- IF never enters HALTED. -/
theorem fetchEffect_engine {s : State} (n : Nat) (h : s.engine ≠ .halted) :
    (fetchEffect s n).engine ≠ .halted := by
  unfold fetchEffect
  split_ifs <;> simp_all

/-! ### The whole step -/

/-- The state EX reads: this cycle's count, no flush yet, WB done. -/
theorem writeBack_beginCycle (s : State) :
    writeBack (beginCycle s) = { s with cycle := s.cycle + 1, flushReq := none, rf := (writeBack s).rf } := rfl

/-- ID's new ID/EX in the cycle from `s`. -/
def idResult (s : State) : IdEx :=
  if s.ifid.valid then decodeIdEx s.cfg s.ifid.word s.ifid.pc else bubbleIdEx (s.cycle + 1)

/-- The engine state at the end of a cycle without a flush (R300). -/
def drainedEngine (e : Engine) (r : IfId) (d : IdEx) (x : ExWb) : Engine :=
  if e = .draining ∧ r.valid = false ∧ d.valid = false ∧ x.valid = false then .halted else e

/-- The state after a cycle whose EX had effect `f` and whose IF had effect `g`. -/
def stepResult (s : State) (f : ExEffect) (g : IfEffect) : State :=
  match f.redirect with
  | some target =>
    { s with
      rf := (writeBack s).rf
      sreg := f.sreg
      dmem := f.dmem
      exwb := f.exwb
      pc := target
      ifid := bubbleIfId (s.cycle + 1)
      idex := bubbleIdEx (s.cycle + 1)
      engine := .running
      diag := s.diag ++ stamped (s.cycle + 1) f.raised ++ stamped (s.cycle + 1) g.raised
      stallIn := s.stallIn.tail
      cycle := s.cycle + 1
      flushReq := none }
  | none =>
    { s with
      rf := (writeBack s).rf
      sreg := f.sreg
      dmem := f.dmem
      exwb := f.exwb
      pc := g.pc
      ifid := g.ifid
      idex := idResult s
      engine := drainedEngine g.engine g.ifid (idResult s) f.exwb
      diag := s.diag ++ stamped (s.cycle + 1) f.raised ++ stamped (s.cycle + 1) g.raised
      stallIn := s.stallIn.tail
      cycle := s.cycle + 1
      flushReq := none }

/-- Everything a step of an engine that is not HALTED does. -/
theorem step_eq {s : State} (h : s.engine ≠ .halted) :
    step s = .next (stepResult s (stageEffect (writeBack (beginCycle s))) (fetchEffect s (s.cycle + 1))) := by
  have hg := fetchEffect_engine (n := s.cycle + 1) h
  rw [step, if_neg h, cycleStages, executeStage_eq, andThen_next, fetchStage_eq, andThen_next]
  generalize stageEffect (writeBack (beginCycle s)) = f
  have hge : fetchEffect (decodeStage (f.on (writeBack (beginCycle s))))
      (decodeStage (f.on (writeBack (beginCycle s)))).cycle = fetchEffect s (s.cycle + 1) := rfl
  rw [hge]
  generalize fetchEffect s (s.cycle + 1) = g at hg ⊢
  congr 1
  unfold endCycle stepResult
  simp only []
  cases hr : f.redirect with
  | none =>
    have hn : f.redirect.orElse (fun _ => (none : Option Word)) = none := by rw [hr]; rfl
    rw [applyFlush_none (show State.flushReq _ = none from hn)]
    unfold detectHalt State.withEngine State.withStallIn decodeStage State.withIdEx ExEffect.on
    simp only [hr]
    rfl
  | some target =>
    have hn : f.redirect.orElse (fun _ => (none : Option Word)) = some target := by rw [hr]; rfl
    rw [applyFlush_some (show State.flushReq _ = some target from hn)]
    have hrun : afterFlush g.engine = .running := by
      cases he : g.engine <;> simp_all [afterFlush]
    unfold detectHalt State.withEngine State.withStallIn
    simp only [hrun]
    rfl

/-- The next state of an engine that is not HALTED, as an equation. -/
theorem eq_stepResult {s t : State} (h : s.engine ≠ .halted) (ht : step s = .next t) :
    t = stepResult s (stageEffect (writeBack (beginCycle s))) (fetchEffect s (s.cycle + 1)) := by
  rw [step_eq h] at ht
  exact (Host.Outcome.next.inj ht).symm

/-- In HALTED a step is the identity. -/
theorem step_halted {s : State} (h : s.engine = .halted) : step s = .next s := by
  rw [step, if_pos h]

/-! ### The state EX reads, field by field -/

@[simp] theorem exState_cfg (s : State) : (writeBack (beginCycle s)).cfg = s.cfg := rfl
@[simp] theorem exState_sreg (s : State) : (writeBack (beginCycle s)).sreg = s.sreg := rfl
@[simp] theorem exState_dmem (s : State) : (writeBack (beginCycle s)).dmem = s.dmem := rfl
@[simp] theorem exState_idex (s : State) : (writeBack (beginCycle s)).idex = s.idex := rfl
@[simp] theorem exState_cycle (s : State) : (writeBack (beginCycle s)).cycle = s.cycle + 1 := rfl

/-- The flush a cycle takes is the redirect of its EX. -/
theorem flushTaken_eq (s : State) : flushTaken s = (stageEffect (writeBack (beginCycle s))).redirect := by
  unfold flushTaken exInput
  rw [executeStage_eq]
  simp only [ExEffect.on]
  cases (stageEffect (writeBack (beginCycle s))).redirect <;> rfl

/-- EX leaves a valid EX/WB exactly if ID/EX was valid (70_reset_and_hazards.md R292). -/
theorem stageEffect_exwb_valid (s : State) : (stageEffect s).exwb.valid = s.idex.valid := by
  unfold stageEffect
  split
  · rename_i h
    rw [h]
    unfold IdEx.instr
    cases s.idex.tag <;> simp [exEffect, aluEffect, idleExWb]
    split <;> rfl
  · rename_i h
    simp [bubbleExWb, h]

/-- A bubble in ID/EX leaves a bubble in EX/WB and no other effect (10_state.md R39). -/
theorem stageEffect_bubble {s : State} (h : s.idex.valid = false) :
    stageEffect s = ⟨s.sreg, s.dmem, [], bubbleExWb s.cycle, none⟩ := by
  unfold stageEffect
  rw [h]
  rfl

end Sys2Proof.Machine
end

