-- ==== Sys2Proof/Tests/Slice0.lean ====
section
/-! SUPPORT. Our own tests. Expected values are the vectors of 95_test_vectors.md or the words and
corner cases of the rules named; a witness theorem shows that a statement's hypotheses can be met. -/

namespace Sys2Proof.Tests

open Sys2Proof.Machine

/-! ### Helpers -/

/-- The next state of an outcome. -/
def nextOf (o : Host.Outcome State Fault Refusal) : State :=
  match o with
  | .next s => s
  | .fault _ => State.reset
  | .refused _ => State.reset

/-- The reset state with two registers set. -/
def two (i : RegIdx) (a : Byte) (j : RegIdx) (b : Byte) : State := (State.reset.setReg i a).setReg j b

/-- The state with a word decoded in ID/EX that was fetched from `pc`. -/
def inEx (s : State) (w pc : Word) : State := s.withIdEx (decodeIdEx s.cfg w pc)

/-- One cycle with the word placed as the next instruction. -/
def runWord (s : State) (w : Nat) : State := nextOf (step (s.withFetchWord 16 w))

/-- The optional MOVI switched on. -/
def moviOn : Config := { Config.default with moviEnabled := true }

/-- Register 0 hard-wired to zero. -/
def r0On : Config := { Config.default with r0Zero := true }

/-- The twelve-opcode map of 93_implementation_defined.md G3. -/
def mapG3 : OpcodeMap where
  add := 0
  sub := 1
  mul := 2
  movi := 3
  beqz := 4
  andi := 5
  xor := 6
  jr := 7
  sll := 8
  sra := 9
  load := 10
  store := 11

/-- A step of an engine that is not HALTED answers `nextOf`. -/
theorem step_nextOf {s : State} (h : s.engine ≠ .halted) : step s = .next (nextOf (step s)) := by
  rw [step_eq h]
  rfl

/-! ### WellFormed refuses an ill-formed term, one for each check -/

theorem test_wf_config_default : Config.default.wf = true := by decide
theorem test_wf_config_g3 : ({ r0Zero := false, moviEnabled := true, opcodeMap := mapG3 } : Config).wf = true := by decide
theorem test_wf_refuses_repeated_opcode :
    ({ Config.default with opcodeMap := { OpcodeMap.default with jr := 9 } } : Config).wf = false := by decide
theorem test_wf_refuses_opcode_fifteen :
    ({ Config.default with opcodeMap := { OpcodeMap.default with jr := 15 } } : Config).wf = false := by decide
theorem test_wf_refuses_movi_on_a_used_opcode :
    ({ moviOn with opcodeMap := { OpcodeMap.default with movi := 10 } } : Config).wf = false := by decide
theorem test_wf_refuses_andi_above_31 : (Instr.andi 1 0x20).wf .default = false := by decide
theorem test_wf_refuses_andi_below_minus_32 : (Instr.andi 1 0xDF).wf .default = false := by decide
theorem test_wf_refuses_sll_above_63 : (Instr.sll 1 0x40).wf .default = false := by decide
theorem test_wf_refuses_sra_above_63 : (Instr.sra 1 0xFF).wf .default = false := by decide
theorem test_wf_refuses_beqz_above_31 : (Instr.beqz 1 0x7F).wf .default = false := by decide
theorem test_wf_refuses_movi_disabled : (Instr.movi 1 0xFF).wf .default = false := by decide
theorem test_wf_refuses_movi_above_31 : (Instr.movi 1 0x20).wf moviOn = false := by decide
theorem test_wf_refuses_unknown_of_an_assigned_opcode : (Instr.unknown 0 1 2).wf .default = false := by decide
theorem test_wf_refuses_unknown_of_movi_enabled : (Instr.unknown 11 1 2).wf moviOn = false := by decide
theorem test_wf_refuses_unknown_of_the_halt_word : (Instr.unknown 15 63 63).wf .default = false := by decide

/-! ### Words written out from 30_encoding.md R91 to R94 -/

theorem test_decode_add : decode .default 0b0000000001000010 = .add 1 2 := by decide
theorem test_decode_sub : decode .default 0b0001000001000010 = .sub 1 2 := by decide
theorem test_decode_mul : decode .default 0b0010000100000101 = .mul 4 5 := by decide
theorem test_decode_xor : decode .default 0b0011000110000111 = .xor 6 7 := by decide
theorem test_decode_andi : decode .default 0b0100000110110000 = .andi 6 0xF0 := by decide
theorem test_decode_sll : decode .default 0b0101000110001000 = .sll 6 8 := by decide
theorem test_decode_sra : decode .default 0b0110000010111111 = .sra 2 63 := by decide
theorem test_decode_load : decode .default 0b0111000101111111 = .load 5 63 := by decide
theorem test_decode_store : decode .default 0b1000000001000011 = .store 1 3 := by decide
theorem test_decode_beqz : decode .default 0b1001000000111100 = .beqz 0 0xFC := by decide
theorem test_decode_jr : decode .default 0b1010000001000010 = .jr 1 2 := by decide
theorem test_decode_movi : decode moviOn 0b1011000001111111 = .movi 1 0xFF := by decide
theorem test_decode_movi_disabled : decode .default 0b1011000001111111 = .unknown 11 1 63 := by decide
theorem test_decode_unknown : decode .default 0b1101010101010101 = .unknown 13 21 21 := by decide
theorem test_decode_opcode_fifteen : decode .default 0b1111111111111110 = .unknown 15 63 62 := by decide
theorem test_decode_halt : decode .default 0b1111111111111111 = .halt := by decide
theorem test_decode_under_map_g3 :
    decode { moviOn with opcodeMap := mapG3 } 0b0011000001111111 = .movi 1 0xFF := by decide
theorem test_encode_beqz : encode .default (.beqz 3 1) = 0b1001000011000001 := by decide
theorem test_encode_store : encode .default (.store 5 0) = 0b1000000101000000 := by decide
theorem test_table_word_movi : decodeTableWord 16 0xB07F = some (.movi 1 0xFF) := by decide
theorem test_table_word_unknown : decodeTableWord 16 0xC000 = some (.unknown 12 0 0) := by decide

/-! ### One instruction in one step -/

/-- A-1. -/
theorem test_add_overflow : (runWord (two 1 0x7F 2 0x01) 0x0042).sreg = 0x0C ∧
    (runWord (two 1 0x7F 2 0x01) 0x0042).exwb.result = 0x80 := by decide
/-- A-4, source and destination the same register. -/
theorem test_add_carry_and_overflow : (runWord (two 1 0x80 2 0x00) 0x0041).sreg = 0x1B := by decide
/-- A-10. -/
theorem test_sub_borrow_keeps_carry_clear : (runWord (two 1 0x03 2 0x05) 0x1042).sreg = 0x06 ∧
    (runWord (two 1 0x03 2 0x05) 0x1042).exwb.result = 0xFE := by decide
/-- A-11. -/
theorem test_sub_overflow : (runWord (two 1 0x80 2 0x01) 0x1042).sreg = 0x0A := by decide
/-- A-17. -/
theorem test_mul_negative : (runWord (two 6 0x0C 2 0x00) 0x2186).exwb.result = 0x90 := by decide
/-- A-19. -/
theorem test_mul_high_byte_lost : (runWord (two 4 0x80 5 0x02) 0x2105).sreg = 0x01 := by decide
/-- A-26. -/
theorem test_xor : (runWord (two 6 0x0C 7 0x81) 0x3187).exwb.result = 0x8D := by decide
/-- I-8. -/
theorem test_andi_sign_extends : (runWord (two 1 0xAA 2 0x00) 0x4070).exwb.result = 0xA0 := by decide
/-- A-28: the bit shifted out does not reach C. -/
theorem test_sll_no_carry : (runWord (two 2 0x81 1 0x00) 0x5081).exwb.result = 0x02 ∧
    (runWord (two 2 0x81 1 0x00) 0x5081).sreg = 0x00 := by decide
/-- A-30. -/
theorem test_sll_saturates : (runWord (two 2 0xFF 1 0x00) 0x5088).sreg = 0x01 := by decide
/-- A-37, the word of `SRA R2, 1`. -/
theorem test_sra_rounds_down : (runWord (two 2 0xF9 1 0x00) 0x6081).exwb.result = 0xFC := by decide
/-- A-36 with the largest count. -/
theorem test_sra_saturates : (runWord (two 2 0x7F 1 0x00) 0x60BF).exwb.result = 0x00 := by decide
/-- I-15. -/
theorem test_load : (runWord (State.reset.withDmem [(63, 0xA5)]) 0x717F).exwb.result = 0xA5 := by decide
/-- I-16. -/
theorem test_store : (runWord (two 5 0x5A 1 0x00) 0x8140).dmem = [(0, 0x5A)] := by decide
/-- 20_memory.md R68: a zero stored is what an unlisted cell reads as. -/
theorem test_store_zero : (runWord (State.reset.withDmem [(0, 0x11), (3, 0x22)]) 0x8140).dmem = [(3, 0x22)] := by decide
/-- B-3: a taken branch of displacement 0 still flushes. -/
theorem test_beqz_taken : (runWord State.reset 0x9000).pc = 1 ∧
    (runWord State.reset 0x9000).ifid.valid = false := by decide
/-- B-4. -/
theorem test_beqz_out_of_range :
    (runWord State.reset 0x9020).diag = [⟨.cycle 1, .branchTargetOob 0 (-31)⟩] := by decide
/-- J-1. -/
theorem test_jr_taken : (runWord (two 1 0x00 2 0x06) 0xA042).pc = 6 := by decide
/-- J-2. -/
theorem test_jr_out_of_range :
    (runWord (two 1 0x04 2 0x00) 0xA042).diag = [⟨.cycle 1, .branchTargetOob 0 1024⟩] := by decide
/-- M-2, first word; R178: SREG unchanged. -/
theorem test_movi : (runWord (State.reset.withSreg 0x1B) 0xB07F).exwb.result = 0xFF ∧
    (runWord (State.reset.withSreg 0x1B) 0xB07F).sreg = 0x1B := by decide
/-- S-3: with nothing in flight the sentinel halts the engine in the same cycle, and the pc stays. -/
theorem test_halt : (runWord State.reset 0xFFFF).engine = .halted ∧ (runWord State.reset 0xFFFF).pc = 0 := by decide
/-- U-1, first word. -/
theorem test_unknown :
    (runWord State.reset 0xC000).diag = [⟨.cycle 1, .unknownOpcode 0 0xC000⟩] ∧
      (runWord State.reset 0xC000).exwb.valid = true := by decide

/-! ### The pipeline -/

/-- D-1: the second ADD reads what the first one's WB wrote in the same cycle. -/
theorem test_no_data_hazard :
    (nextOf (step ((inEx (two 1 0x01 2 0x00) 0x0041 1).withExWb ⟨true, .add, 2, 1, .none, 0⟩))).exwb.result = 4 := by
  decide
/-- Z-2: with R0_ZERO a write to register 0 is discarded. -/
theorem test_r0_zero :
    (nextOf (step ((State.reset.withCfg r0On).withExWb ⟨true, .load, 9, 0, .load, 0⟩))).reg 0 = 0 := by decide
/-- S-11: a fetch at 1024 raises its diagnostic, reads the HALT word and leaves the pc. -/
theorem test_fetch_out_of_range :
    (nextOf (step (State.reset.withPc 1024))).diag = [⟨.cycle 1, .imemFetchOob 1024⟩] ∧
      (nextOf (step (State.reset.withPc 1024))).pc = 1024 := by decide
/-- H-1. -/
theorem test_host_register_bound :
    hostReadReg 64 State.reset = (0x00, State.reset.log ⟨.host, .regIndexOob 64⟩) := rfl
/-- H-2. -/
theorem test_flag_id_bound : (setFlag 7 State.reset).sreg = 0x00 ∧
    (setFlag 7 State.reset).diag = [⟨.host, .flagIdInvalid 7⟩] := by decide

/-- A taken branch in EX while IF stands at 1024 (log 16). -/
def wrongPathAtEnd : State := inEx (State.reset.withPc 1024) 0x903C 1022

/-- Log 16: without a stall the wrong-path fetch at 1024 is logged. -/
theorem test_wrong_path_fetch_logged : (nextOf (step wrongPathAtEnd)).diag = [⟨.cycle 1, .imemFetchOob 1024⟩] ∧
    (nextOf (step wrongPathAtEnd)).pc = 1019 := by decide
/-- Log 16: with a stall in that cycle it is not, and the run goes on at the same target. -/
theorem test_wrong_path_fetch_withheld : (nextOf (step (wrongPathAtEnd.withStallIn [true]))).diag = [] ∧
    (nextOf (step (wrongPathAtEnd.withStallIn [true]))).pc = 1019 := by decide

/-- Log 16: an unknown word at 1023 in IF/ID, and IF at 1024 on the taken path. -/
def unknownAtEnd : State := (State.reset.withPc 1024).withIfId ⟨true, 0xC000, 1023⟩

/-- Log 16: R290 raises the fetch's diagnostic in cycle 1 and the older word's in cycle 2. -/
theorem test_fetch_diagnostic_first : ((nextOf (step (nextOf (step unknownAtEnd)))).diag.map Event.diag) =
    [.imemFetchOob 1024, .unknownOpcode 1023 0xC000] := by decide
/-- Log 16: a stall in cycle 1 moves the fetch to cycle 2, after EX (60_exceptions.md R249). -/
theorem test_stall_swaps_diagnostics :
    ((nextOf (step (nextOf (step (unknownAtEnd.withStallIn [true]))))).diag.map Event.diag) =
      [.unknownOpcode 1023 0xC000, .imemFetchOob 1024] := by decide
/-- Log 16: the wrong-path fetch does not count among the kept ones, the one on the taken path does. -/
theorem test_kept_fetch_diagnostics : keptFetchDiags 1 wrongPathAtEnd [] = [] ∧
    keptFetchDiags 2 unknownAtEnd [] = [.imemFetchOob 1024] := by decide

/-! ### Witnesses: the hypotheses of each statement of Obligations.lean are met -/

/-- ADD R1, R1 in EX, nothing else in flight. -/
def addInEx : State := inEx (two 1 0x01 2 0x00) 0x0041 0

/-- BEQZ R0, 1 in EX at address 0, LOAD R1, 0 at its target. -/
def branchInEx : State := inEx ((State.reset.withImem [(2, 0x7040)]).withPc 1) 0x9001 0

/-- STORE R1, 10 in EX and LOAD R2, 10 behind it (D-2). -/
def storeThenLoad : State := (inEx (two 1 0x21 2 0x00) 0x804A 0).withIfId ⟨true, 0x708A, 1⟩

/-- A legal state with ADD R1, R1 in EX: address 0 of a two-word program. -/
def legalAdd : State := (addInEx.withImem [(0, 0x0041), (1, 0xFFFF)]).withPc 1

/-- A legal state with a bubble in EX: the same program before its first fetch. -/
def legalStart : State := (two 1 0x01 2 0x00).withImem [(0, 0x0041), (1, 0xFFFF)]

/-- A legal halted state: the HALT word at 0, nothing in flight. -/
def legalHalted : State := (State.reset.withImem [(0, 0xFFFF)]).withEngine .halted

theorem witness_EncodedFieldsReadBack : Config.default.wf = true ∧ encodeFields 15 63 63 = 0xFFFF ∧
    encodeFields 15 63 62 ≠ 0xFFFF := by decide

/-- Every constructor has a well-formed term; immediates stand at the ends of their ranges. -/
theorem witness_DecodeInvertsEncode : moviOn.wf = true ∧
    (∀ i ∈ [Instr.add 0 63, .sub 63 0, .mul 1 1, .xor 2 3, .andi 1 0xE0, .sll 1 63, .sra 1 0, .load 63 63,
      .store 0 0, .beqz 1 0x1F, .jr 63 63, .movi 1 0xE0, .halt, .unknown 15 63 62], i.wf moviOn = true) := by decide

theorem witness_EncodeInvertsDecode :
    ({ r0Zero := false, moviEnabled := true, opcodeMap := mapG3 } : Config).wf = true := test_wf_config_g3

/-- The last defined opcode, the first unknown one and the last word that is not the sentinel. -/
theorem witness_EveryWordIsHaltDefinedOrUnknown : (0xAFFF : Word).toNat / 4096 ≤ 10 ∧
    ((0xB000 : Word) ≠ 0xFFFF ∧ 11 ≤ (0xB000 : Word).toNat / 4096) ∧
    ((0xFFFE : Word) ≠ 0xFFFF ∧ 11 ≤ (0xFFFE : Word).toNat / 4096) := by decide

/-- One word for each clause, at the ends of the ranges. -/
theorem witness_ImmediateFollowsTheTag :
    (decodeIdEx .default 0xA042 0).tag = .jr ∧ (decodeIdEx .default 0xF000 0).tag = .unknown ∧
    (decodeIdEx .default 0x4060 0).imm.toInt = -32 ∧ (decodeIdEx .default 0x405F 0).imm.toInt = 31 ∧
    (decodeIdEx .default 0x717F 0).imm.toNat = 63 ∧ (decodeIdEx .default 0x8140 0).imm.toNat = 0 := by decide

/-- SUB with operand signs that differ (A-11). -/
theorem witness_SubCompletes :
    ((two 1 0x80 2 0x01).reg 1).getLsbD 7 ≠ ((two 1 0x80 2 0x01).reg 2).getLsbD 7 := by decide

/-- The counts where the clauses of SRA meet, and a negative register. -/
theorem witness_SraCompletes : (7 : Byte).toNat < 8 ∧ 7 ≤ (7 : Byte).toNat ∧ 8 ≤ (8 : Byte).toNat ∧
    ((two 2 0x80 1 0x00).reg 2).toInt < 0 := by decide

/-- Both values of the sign for both instructions. -/
theorem witness_SignFlagIsTheExactSign :
    (∃ t, exec (.add 1 2) (two 1 0x80 2 0xFF) = .next t ∧ flagS t.sreg = true) ∧
    (∃ t, exec (.add 1 2) (two 1 0x7F 2 0x01) = .next t ∧ flagS t.sreg = false) ∧
    (∃ t, exec (.sub 1 2) (two 1 0x80 2 0x01) = .next t ∧ flagS t.sreg = true) ∧
    (∃ t, exec (.sub 1 2) (two 1 0x7F 2 0xFF) = .next t ∧ flagS t.sreg = false) :=
  ⟨⟨_, rfl, by decide⟩, ⟨_, rfl, by decide⟩, ⟨_, rfl, by decide⟩, ⟨_, rfl, by decide⟩⟩

theorem witness_StoreCompletes : Memory.wf dmemBytes [((0 : Nat), (0x5A : Byte)), (2047, 0x01)] = true := by decide

/-- Not taken, the first and last target in range, and the targets just outside. -/
theorem witness_BeqzCompletes : (two 1 0x01 2 0x00).reg 1 ≠ 0x00 ∧ State.reset.reg 1 = 0x00 ∧
    (((0 : Word).toNat : Int) + 1 + (0xFF : Byte).toInt = 0) ∧
    (((1021 : Word).toNat : Int) + 1 + (0x01 : Byte).toInt = 1023) ∧
    (((1021 : Word).toNat : Int) + 1 + (0x02 : Byte).toInt = 1024) ∧
    (((0 : Word).toNat : Int) + 1 + (0xFE : Byte).toInt = -1) := by decide

/-- The last target in range and the first one out of it. -/
theorem witness_JrCompletes :
    256 * ((two 1 0x03 2 0xFF).reg 1).toNat + ((two 1 0x03 2 0xFF).reg 2).toNat = 1023 ∧
    256 * ((two 1 0x04 2 0x00).reg 1).toNat + ((two 1 0x04 2 0x00).reg 2).toNat = 1024 := by decide

/-- A register instruction, a branch and HALT answer a next state. -/
theorem witness_ExecFrame : (∃ t, exec (.xor 1 2) State.reset = .next t) ∧
    (∃ t, exec (.beqz 0 1) State.reset = .next t) ∧ (∃ t, exec .halt State.reset = .next t) :=
  ⟨⟨_, rfl⟩, ⟨_, rfl⟩, ⟨_, rfl⟩⟩

theorem witness_SregWrittenByAluClassOnly :
    ∃ t, step (inEx (two 1 0x80 2 0x00) 0x0041 0) = .next t ∧
      t.sreg ≠ (inEx (two 1 0x80 2 0x00) 0x0041 0).sreg :=
  ⟨_, step_nextOf (by decide), by decide⟩

/-- WB writes R1; with R0_ZERO it does not write R0. -/
theorem witness_RegistersWrittenByWbOnly :
    (∃ t, step (State.reset.withExWb ⟨true, .add, 2, 1, .none, 0⟩) = .next t ∧ t.reg 1 = 2) ∧
    (∃ t, step ((State.reset.withCfg r0On).withExWb ⟨true, .add, 2, 0, .none, 0⟩) = .next t ∧ t.reg 0 = 0) :=
  ⟨⟨_, step_nextOf (by decide), by decide⟩, ⟨_, step_nextOf (by decide), by decide⟩⟩

theorem witness_DataMemoryWrittenByStoreOnly :
    ∃ t, Memory.wf dmemBytes storeThenLoad.dmem = true ∧ step storeThenLoad = .next t ∧
      storeThenLoad.engine ≠ .halted ∧ readCell t.dmem 10 = 0x21 :=
  ⟨_, by decide, step_nextOf (by decide), by decide, by decide⟩

theorem witness_InstructionMemoryIsConstant : ∃ t, step legalAdd = .next t ∧ t.imem = legalAdd.imem :=
  ⟨_, step_nextOf (by decide), by decide⟩

theorem witness_ResultVisibleToNextInstruction : addInEx.engine ≠ .halted ∧ addInEx.idex.valid = true ∧
    addInEx.idex.tag ∈ [Tag.add, .sub, .mul, .xor, .andi, .sll, .sra, .load, .movi] := by decide

theorem witness_LoadSeesTheStoreBeforeIt : storeThenLoad.engine ≠ .halted ∧
    Memory.wf dmemBytes storeThenLoad.dmem = true ∧ storeThenLoad.idex.valid = true ∧
    storeThenLoad.idex.instr = .store 1 10 ∧ storeThenLoad.ifid.valid = true ∧
    storeThenLoad.cfg.tagOf (opcField storeThenLoad.ifid.word) = .load ∧
    f2Field storeThenLoad.ifid.word = 10 := by decide

theorem witness_StepRunsTheDecodedInstruction : addInEx.engine ≠ .halted ∧ (0x0041 : Word) ≠ haltWord ∧
    addInEx.idex = decodeIdEx addInEx.cfg 0x0041 0 := by decide

/-- A cycle in which all three stages hand on, and one with a flush. -/
theorem witness_StagesHandOver :
    (∃ t, step storeThenLoad = .next t ∧ storeThenLoad.engine ≠ .halted ∧ flushTaken storeThenLoad = none ∧
      storeThenLoad.ifid.valid = true ∧ fetches storeThenLoad = true ∧
      wordAt storeThenLoad storeThenLoad.pc ≠ haltWord ∧ t.idex.valid = true ∧ t.ifid.valid = true) ∧
    flushTaken branchInEx = some 2 :=
  ⟨⟨_, step_nextOf (by decide), by decide, by decide, by decide, by decide, by decide, by decide, by decide⟩, by decide⟩

/-- A flush, a fetch at the last address, and the end of instruction memory. -/
theorem witness_PcUpdate : (∃ t, step branchInEx = .next t ∧ t.pc = 2) ∧
    (∃ t, step (State.reset.withPc 1023) = .next t ∧ t.pc = 1024) ∧
    (∃ t, step (State.reset.withPc 1024) = .next t ∧ t.pc = 1024) :=
  ⟨⟨_, step_nextOf (by decide), by decide⟩, ⟨_, step_nextOf (by decide), by decide⟩,
    ⟨_, step_nextOf (by decide), by decide⟩⟩

/-- R264: the trace event of a flush cycle shows the redirect and the word fetched before the discard. -/
theorem test_trace_event : (traceEvent branchInEx).map (fun t => (t.exFlush, t.ifProduced.valid, t.wbProduced)) =
    some (some 2, true, none) := by decide

theorem witness_FlushDiscardsTheYoungerTwo : ∃ t, step branchInEx = .next t ∧ branchInEx.engine ≠ .halted ∧
    flushTaken branchInEx = some 2 ∧ stalled t = false ∧ readCell t.imem 2 ≠ 0xFFFF :=
  ⟨_, step_nextOf (by decide), by decide, by decide, by decide, by decide⟩

/-- One state for each row of the table. -/
theorem witness_EngineTransitions :
    (∃ t, step legalHalted = .next t ∧ legalHalted.engine = .halted) ∧
    (∃ t, step branchInEx = .next t ∧ branchInEx.engine = .running ∧ flushTaken branchInEx ≠ none) ∧
    (∃ t, step legalAdd = .next t ∧ legalAdd.engine = .running ∧ flushTaken legalAdd = none ∧
      stalled legalAdd = false ∧ wordAt legalAdd legalAdd.pc = 0xFFFF ∧ t.engine = .draining) ∧
    (∃ t, step (legalHalted.withEngine .running) = .next t ∧ t.engine = .halted) ∧
    (∃ t, step (legalAdd.withStallIn [true]) = .next t ∧ stalled (legalAdd.withStallIn [true]) = true ∧
      t.engine = .running) ∧
    (∃ t, step (branchInEx.withEngine .draining) = .next t ∧ flushTaken (branchInEx.withEngine .draining) ≠ none ∧
      t.engine = .running) ∧
    (∃ t, step (legalAdd.withEngine .draining) = .next t ∧ flushTaken (legalAdd.withEngine .draining) = none ∧
      t.engine = .draining) :=
  ⟨⟨_, step_halted rfl, rfl⟩, ⟨_, step_nextOf (by decide), rfl, by decide⟩,
    ⟨_, step_nextOf (by decide), rfl, by decide, by decide, by decide, by decide⟩,
    ⟨_, step_nextOf (by decide), by decide⟩, ⟨_, step_nextOf (by decide), by decide, by decide⟩,
    ⟨_, step_nextOf (by decide), by decide, by decide⟩, ⟨_, step_nextOf (by decide), by decide, by decide⟩⟩

/-- A halted state; a step that enters HALTED and one that stays in DRAINING. -/
theorem witness_HaltedIsTerminalAndEmpty : legalHalted.engine = .halted ∧
    (∃ t, step (legalHalted.withEngine .running) = .next t ∧ t.engine = .halted) ∧
    (∃ t, step legalAdd = .next t ∧ t.engine = .draining) :=
  ⟨rfl, ⟨_, step_nextOf (by decide), by decide⟩, ⟨_, step_nextOf (by decide), by decide⟩⟩

/-- The same cycle with and without a stall: without a flush, with one, in DRAINING, and at the address 1024
whose diagnostic the stall withholds. -/
theorem witness_StallWithholdsOneFetch : legalStart.engine ≠ .halted ∧
    (∃ t, step (legalStart.withStallIn [true]) = .next t ∧ t.pc = 0) ∧
    (∃ u, step (legalStart.withStallIn [false]) = .next u ∧ u.pc = 1) ∧
    flushTaken legalStart = none ∧ legalStart.engine = .running ∧ flushTaken branchInEx ≠ none ∧
    (legalAdd.withEngine .draining).engine = .draining ∧
    ((State.reset.withPc 1024).engine = .running ∧ 1024 ≤ (State.reset.withPc 1024).pc.toNat) :=
  ⟨by decide, ⟨_, step_nextOf (by decide), by decide⟩, ⟨_, step_nextOf (by decide), by decide⟩, by decide, rfl,
    by decide, rfl, rfl, by decide⟩

theorem witness_DrainingHaltsWithinThreeCycles :
    ∃ a b c, (legalAdd.withEngine .draining).engine = .draining ∧
      step (legalAdd.withEngine .draining) = .next a ∧ step a = .next b ∧ step b = .next c ∧
      flushTaken (legalAdd.withEngine .draining) = none ∧ flushTaken a = none ∧ flushTaken b = none :=
  ⟨_, _, _, rfl, step_nextOf (by decide), step_nextOf (by decide), step_halted (by decide), by decide, by decide,
    by decide⟩

theorem witness_TakenBranchCostsTwoBubbles :
    ∃ t u v, branchInEx.engine ≠ .halted ∧ flushTaken branchInEx = some 2 ∧ step branchInEx = .next t ∧
      step t = .next u ∧ step u = .next v ∧ stalled t = false ∧ readCell branchInEx.imem 2 ≠ 0xFFFF :=
  ⟨_, _, _, by decide, by decide, step_nextOf (by decide), step_nextOf (by decide), step_nextOf (by decide),
    by decide, by decide⟩

/-- An EX diagnostic and an IF diagnostic in one cycle. -/
theorem witness_DiagnosticsOfOneCycle :
    ∃ t, step (inEx (State.reset.withPc 1024) 0xC000 1022) = .next t ∧
      t.diag = [⟨.cycle 1, .unknownOpcode 1022 0xC000⟩, ⟨.cycle 1, .imemFetchOob 1024⟩] :=
  ⟨_, step_nextOf (by decide), by decide⟩

/-- A step with all three registers invalid, and two different states that differ in a bubble only. -/
theorem witness_InvalidRegistersCarryNothing :
    (∃ t, step State.reset = .next t ∧ State.reset.engine ≠ .halted ∧ State.reset.exwb.valid = false ∧
      State.reset.idex.valid = false ∧ State.reset.ifid.valid = false) ∧
    ∃ t t', maskBubbles State.reset = maskBubbles (State.reset.withIfId ⟨false, 0x1234, 7⟩) ∧
      State.reset ≠ State.reset.withIfId ⟨false, 0x1234, 7⟩ ∧ step State.reset = .next t ∧
      step (State.reset.withIfId ⟨false, 0x1234, 7⟩) = .next t' :=
  ⟨⟨_, step_nextOf (by decide), by decide, rfl, rfl, rfl⟩,
    ⟨_, _, rfl, by decide, step_nextOf (by decide), step_nextOf (by decide)⟩⟩

theorem legalAdd_inv : Inv legalAdd where
  cfgWf := by decide
  imemWf := by decide
  dmemWf := by decide
  pcRange := by decide
  noFlush := by decide
  sreg := ⟨by decide, by decide⟩
  ifid := fun h => absurd h (by decide)
  idex := fun _ => ⟨by decide, by decide, by decide, by decide⟩
  exwb := fun h => absurd h (by decide)
  engine := ⟨fun h => absurd rfl h, fun h => absurd h (by decide), fun h => absurd h (by decide)⟩

theorem legalStart_inv : Inv legalStart where
  cfgWf := by decide
  imemWf := by decide
  dmemWf := by decide
  pcRange := by decide
  noFlush := by decide
  sreg := ⟨by decide, by decide⟩
  ifid := fun h => absurd h (by decide)
  idex := fun h => absurd h (by decide)
  exwb := fun h => absurd h (by decide)
  engine := ⟨fun h => absurd rfl h, fun h => absurd h (by decide), fun h => absurd h (by decide)⟩

theorem legalHalted_inv : Inv legalHalted where
  cfgWf := by decide
  imemWf := by decide
  dmemWf := by decide
  pcRange := by decide
  noFlush := by decide
  sreg := ⟨by decide, by decide⟩
  ifid := fun h => absurd h (by decide)
  idex := fun h => absurd h (by decide)
  exwb := fun h => absurd h (by decide)
  engine := ⟨fun _ => ⟨by decide, by decide⟩, fun h => absurd h (by decide), fun _ => by decide⟩

theorem witness_StepKeepsTheInvariant : ∃ t, Inv legalAdd ∧ step legalAdd = .next t :=
  ⟨_, legalAdd_inv, step_nextOf (by decide)⟩

theorem witness_LaunchMeetsTheInvariant : Config.default.wf = true ∧
    Memory.wf dmemBytes [((0 : Nat), (0x7F : Byte)), (2047, 0x01)] = true := by decide

/-- A cycle with an instruction in EX, one with a bubble, and the end. -/
theorem witness_PipelineRefinesSequentialMachine :
    (∃ t, Inv legalAdd ∧ step legalAdd = .next t ∧ legalAdd.engine ≠ .halted ∧ legalAdd.idex.valid = true) ∧
    (∃ t, Inv legalStart ∧ step legalStart = .next t ∧ legalStart.engine ≠ .halted ∧
      legalStart.idex.valid = false) ∧
    (∃ t, Inv legalHalted ∧ step legalHalted = .next t ∧ legalHalted.engine = .halted) :=
  ⟨⟨_, legalAdd_inv, step_nextOf (by decide), by decide, rfl⟩,
    ⟨_, legalStart_inv, step_nextOf (by decide), by decide, rfl⟩, ⟨_, legalHalted_inv, step_halted rfl, rfl⟩⟩

/-- The same program with a stall in cycle 1 and without one, each at the end of its run; neither fetches
outside IMEM. -/
theorem witness_StallsChangeTimingOnly : Inv legalStart ∧
    (runCycles 5 { legalStart with stallIn := [true] }).outcome = .halted ∧
    (runCycles 4 { legalStart with stallIn := [] }).outcome = .halted ∧
    ∀ d ∈ raisedSince legalStart (runCycles 5 { legalStart with stallIn := [true] }).final ++
      raisedSince legalStart (runCycles 4 { legalStart with stallIn := [] }).final, ofExecution d = true :=
  ⟨legalStart_inv, by decide, by decide, by decide⟩

/-- The premise on DIAG is met with a diagnostic in it: an unknown word before the HALT word. -/
theorem witness_StallsChangeTimingOnly_diagnostics :
    raisedSince State.reset (runCycles 4 (launch .default [0xC000] (Vector.replicate 64 0) [] [])).final =
      [.unknownOpcode 0 0xC000] := by decide

theorem witness_RunLengthCountsInstructionsAndFlushes :
    (runCycles 4 (launch .default [0x0041] (Vector.replicate 64 0) [] [])).outcome = .halted ∧
    (runCycles 1 (launch .default [] (Vector.replicate 64 0) [] [])).outcome = .halted := by decide

/-- The last address in range and the first one out of it, for the three bounds checks and the host's. -/
theorem witness_MemReadBoundsCheck : 2047 < 2048 ∧ 2048 ≤ 2048 := by decide
theorem witness_MemWriteBoundsCheck : Memory.wf dmemBytes [((2047 : Nat), (0x01 : Byte))] = true ∧ 2047 < 2048 ∧
    2048 ≤ 2048 := by decide
theorem witness_IFetchBoundsCheck : (1023 : Word).toNat < 1024 ∧ 1024 ≤ (1024 : Word).toNat := by decide
theorem witness_HostInstructionAccess : Memory.wf imemWords [((1023 : Nat), (0xFFFF : Word))] = true ∧ 1023 < 1024 ∧
    1024 ≤ 1024 := by decide
theorem witness_HostRegisterAccess : 63 < 64 ∧ 64 ≤ 64 ∧ State.reset.cfg.r0Zero = false := by decide
theorem witness_FlagInterface : 4 < 5 ∧ 5 ≤ 5 ∧ (7 : Nat) < 8 := by decide

/-- Writing zero over the one listed cell gives the empty memory. -/
theorem witness_CanonicalMemoriesAreEqual : Memory.wf 64 (writeCell [((3 : Nat), (0x22 : Byte))] 3 0x00) = true ∧
    Memory.wf 64 ([] : List Host.Cell) = true ∧
    ∀ a : Nat, readCell (writeCell [((3 : Nat), (0x22 : Byte))] 3 0x00) a = readCell ([] : List Host.Cell) a :=
  ⟨by decide, by decide, fun _ => rfl⟩

theorem witness_RegisterReadAfterWrite : State.reset.cfg.r0Zero = false ∧ (State.reset.withCfg r0On).cfg.r0Zero = true ∧
    (63 : RegIdx) ≠ 0 := by decide

theorem witness_SnapshotShowsTheState : (1023 : Nat) < 1024 ∧ (2047 : Nat) < 2048 := by decide

/-- A run that halts and one that ends at its budget. -/
theorem witness_ControllerOutcomes : (run (some 4) legalStart).outcome = .halted ∧
    (run (some 3) legalStart).outcome = .budget := by decide

/-- A word that acts in EX, and the sentinel. -/
theorem witness_PlacedWordRunsNext : (0x0042 : Word) ≠ haltWord ∧ Memory.wf imemWords State.reset.imem = true := by
  decide

end Sys2Proof.Tests
end

/-! Bubbles (10_state.md R39): the stage of an invalid pipeline register is idle, and a step reads of an
invalid register its validity bit alone. -/

namespace Sys2Proof.Machine

/-! ### The fields a step sets in the same way with and without a flush -/

@[simp] theorem stepResult_rf (s : State) (f : ExEffect) (g : IfEffect) :
    (stepResult s f g).rf = (writeBack s).rf := by
  unfold stepResult; split <;> rfl

@[simp] theorem stepResult_sreg (s : State) (f : ExEffect) (g : IfEffect) :
    (stepResult s f g).sreg = f.sreg := by
  unfold stepResult; split <;> rfl

@[simp] theorem stepResult_dmem (s : State) (f : ExEffect) (g : IfEffect) :
    (stepResult s f g).dmem = f.dmem := by
  unfold stepResult; split <;> rfl

@[simp] theorem stepResult_exwb (s : State) (f : ExEffect) (g : IfEffect) :
    (stepResult s f g).exwb = f.exwb := by
  unfold stepResult; split <;> rfl

@[simp] theorem stepResult_diag (s : State) (f : ExEffect) (g : IfEffect) :
    (stepResult s f g).diag =
      s.diag ++ stamped (s.cycle + 1) f.raised ++ stamped (s.cycle + 1) g.raised := by
  unfold stepResult; split <;> rfl

/-! ### The diagnostics of executed instructions -/

@[simp] theorem executedDiags_append (l m : List Event) :
    executedDiags (l ++ m) = executedDiags l ++ executedDiags m := by
  simp [executedDiags]

@[simp] theorem executedDiags_stamped (n : Nat) (l : List Diag) :
    executedDiags (stamped n l) = l.filter ofExecution := by
  have hmap : (stamped n l).map Event.diag = l := by
    rw [stamped, List.map_map]
    exact List.map_id l
  rw [executedDiags, hmap]

/-- IF raises no diagnostic of an executed instruction. -/
@[simp] theorem fetchEffect_raised_executed (s : State) (n : Nat) :
    (fetchEffect s n).raised.filter ofExecution = [] := by
  unfold fetchEffect
  split_ifs <;> rfl

/-! ### The stage of an invalid register is idle -/

/-- WB of a bubble writes no register. -/
theorem writeBack_rf_of_bubble {s : State} (h : s.exwb.valid = false) : (writeBack s).rf = s.rf := by
  simp [writeBack, h]

/-- ID of a bubble hands on a bubble. -/
theorem idResult_valid_of_bubble {s : State} (h : s.ifid.valid = false) : (idResult s).valid = false := by
  simp [idResult, h]

/-- ID/EX is invalid after a cycle that flushed or had a bubble in ID. -/
theorem stepResult_idex_valid_of_bubble {s : State} (h : s.ifid.valid = false) (f : ExEffect) (g : IfEffect) :
    (stepResult s f g).idex.valid = false := by
  unfold stepResult
  split
  · rfl
  · exact idResult_valid_of_bubble h

/-- EX of a bubble, in the cycle from `s`. -/
theorem stageEffect_exState_of_bubble {s : State} (h : s.idex.valid = false) :
    stageEffect (writeBack (beginCycle s)) = ⟨s.sreg, s.dmem, [], bubbleExWb (s.cycle + 1), none⟩ :=
  stageEffect_bubble (s := writeBack (beginCycle s)) h

/-! ### A step does not see what an invalid register holds -/

theorem maskBubbles_engine (s : State) : (maskBubbles s).engine = s.engine := rfl

theorem writeBack_rf_maskBubbles (s : State) : (writeBack (maskBubbles s)).rf = (writeBack s).rf := by
  cases h : s.exwb.valid with
  | false =>
    have hm : (maskBubbles s).exwb.valid = false := by simp [maskBubbles, h, zeroExWb]
    rw [writeBack_rf_of_bubble h, writeBack_rf_of_bubble hm]
    rfl
  | true =>
    have hm : (maskBubbles s).exwb = s.exwb := by simp [maskBubbles, h]
    simp only [writeBack, State.withRf_rf, hm]
    rfl

theorem stageEffect_maskBubbles (s : State) :
    stageEffect (writeBack (beginCycle (maskBubbles s))) = stageEffect (writeBack (beginCycle s)) := by
  cases h : s.idex.valid with
  | false =>
    have hm : (maskBubbles s).idex.valid = false := by simp [maskBubbles, h, zeroIdEx]
    rw [stageEffect_exState_of_bubble h, stageEffect_exState_of_bubble hm]
    rfl
  | true =>
    have hm : (maskBubbles s).idex = s.idex := by simp [maskBubbles, h]
    have hreg : (writeBack (beginCycle (maskBubbles s))).reg = (writeBack (beginCycle s)).reg :=
      funext (reg_congr rfl (writeBack_rf_maskBubbles s))
    simp only [stageEffect, exState_idex, hm, h, if_true, hreg]
    rfl

theorem idResult_maskBubbles (s : State) : idResult (maskBubbles s) = idResult s := by
  cases h : s.ifid.valid with
  | false => simp [idResult, maskBubbles, h, zeroIfId]
  | true => simp [idResult, maskBubbles, h]

theorem stepResult_maskBubbles (s : State) (f : ExEffect) (g : IfEffect) :
    stepResult (maskBubbles s) f g = stepResult s f g := by
  unfold stepResult
  rw [writeBack_rf_maskBubbles, idResult_maskBubbles]
  rfl

/-- Blotting out the bubbles first leads to the very same next state: every pipeline register is written anew. -/
theorem step_maskBubbles {s : State} (h : s.engine ≠ .halted) : step (maskBubbles s) = step s := by
  rw [step_eq h, step_eq (s := maskBubbles s) h, stageEffect_maskBubbles, stepResult_maskBubbles]
  rfl

/-- A step keeps "differ in the contents of invalid pipeline registers only": HALTED changes nothing, and any
other engine reaches one and the same state. -/
theorem step_respects_maskBubbles {s s' t t' : State} (hm : maskBubbles s = maskBubbles s')
    (ht : step s = .next t) (ht' : step s' = .next t') : maskBubbles t = maskBubbles t' := by
  have he : s.engine = s'.engine := by rw [← maskBubbles_engine s, hm, maskBubbles_engine]
  by_cases h : s.engine = .halted
  · rw [step_halted h] at ht
    rw [step_halted (he ▸ h)] at ht'
    cases ht
    cases ht'
    exact hm
  · have hstep : step s = step s' := by
      rw [← step_maskBubbles h, hm, step_maskBubbles (he ▸ h)]
    rw [hstep, ht'] at ht
    cases ht
    rfl

/-- Settles O40: the idle clauses are read off the closed form of the step, stage by stage; the noninterference
clause holds because blotting out the bubbles before a step does not change its result. -/
theorem invalidRegistersCarryNothing : Obligations.InvalidRegistersCarryNothing := by
  refine ⟨fun s t hs ht => ?_, fun _ _ _ _ => step_respects_maskBubbles⟩
  obtain rfl := eq_stepResult hs ht
  refine ⟨fun hx => ?_, fun hd => ?_, fun hf => stepResult_idex_valid_of_bubble hf _ _⟩
  · rw [stepResult_rf, writeBack_rf_of_bubble hx]
  · have hex := stageEffect_exState_of_bubble hd
    simp [flushTaken_eq, hex]

end Sys2Proof.Machine

/-! Encoded words (30_encoding.md R102): their layout, their fields, and the opcode 15 of the sentinel. -/

namespace Sys2Proof

/-- The three fields stand side by side, from bit 12, from bit 6 and from bit 0. -/
theorem toNat_encodeFields (opc : Opcode) (f1 f2 : BitVec 6) :
    (encodeFields opc f1 f2).toNat = opc.toNat * 4096 + f1.toNat * 64 + f2.toNat := by
  have h1 : f1.toNat < 2 ^ 6 := f1.isLt
  have h2 : f2.toNat < 2 ^ 6 := f2.isLt
  unfold encodeFields
  rw [BitVec.toNat_append, BitVec.toNat_append, ← Nat.shiftLeft_add_eq_or_of_lt h2,
    ← Nat.shiftLeft_add_eq_or_of_lt h1, Nat.shiftLeft_eq, Nat.shiftLeft_eq]
  omega

/-- Words are equal exactly when their fields are: the field readers are left inverses of the encoding. -/
theorem encodeFields_inj {o p : Opcode} {a b x y : BitVec 6} :
    encodeFields o a b = encodeFields p x y ↔ o = p ∧ a = x ∧ b = y := by
  constructor
  · intro h
    refine ⟨?_, ?_, ?_⟩
    · simpa only [Laws.opcField_encodeFields] using congrArg opcField h
    · simpa only [Laws.f1Field_encodeFields] using congrArg f1Field h
    · simpa only [Laws.f2Field_encodeFields] using congrArg f2Field h
  · rintro ⟨rfl, rfl, rfl⟩
    rfl

/-- The sentinel is the word of the highest opcode with both fields at their highest value. -/
theorem haltWord_eq_encodeFields : haltWord = encodeFields 15 63 63 := by decide

/-- Under a legal map no instruction has the sentinel's opcode: an entry for it would break the bound of the map. -/
theorem Config.tagOf_fifteen {c : Config} (h : c.wf = true) : c.tagOf 15 = .unknown := by
  by_contra ht
  exact Config.ne_fifteen_of_wf h (mem_of_lookupTag rfl ht) rfl

/-- Settles O1: the decoder's fields are the field readers, the sentinel is one encoded word among words told
apart by their fields, and a legal map stays below its opcode. -/
theorem encodedFieldsReadBack : Obligations.EncodedFieldsReadBack := fun _ opc f1 f2 _ =>
  have hhalt : encodeFields opc f1 f2 = haltWord ↔ opc = 15 ∧ f1 = 63 ∧ f2 = 63 := by
    rw [haltWord_eq_encodeFields, encodeFields_inj]
  ⟨toNat_encodeFields opc f1 f2, Laws.opcField_encodeFields opc f1 f2, Laws.f1Field_encodeFields opc f1 f2,
    Laws.f2Field_encodeFields opc f1 f2, hhalt, Config.tagOf_fifteen⟩

end Sys2Proof

/-! The ALU class (40_alu.md): the result of each ALU operation, and what EX of an instruction makes of it. -/

namespace Sys2Proof.Machine

/-! ### The ALU's results -/

/-- The sign bit, as the statements spell it. -/
theorem msb_eq_getLsbD_seven (b : Byte) : b.msb = b.getLsbD 7 := BitVec.msb_eq_getLsbD_last b

theorem toNat_aluAdd (a b : Byte) : (alu .add a b).r.toNat = (a.toNat + b.toNat) % 256 := by
  simp [alu, aluAdd]

/-- The ALU's overflow test for a sum, on the sign bits. -/
theorem aluAdd_overflow (a b : Byte) : (alu .add a b).v =
    decide (a.getLsbD 7 = b.getLsbD 7 ∧ (alu .add a b).r.getLsbD 7 ≠ a.getLsbD 7) := by
  rw [Bool.eq_iff_iff, decide_eq_true_iff]
  simp only [← msb_eq_getLsbD_seven]
  simp [alu, aluAdd]

theorem toNat_aluSub (a b : Byte) : ((alu .sub a b).r.toNat : Int) = ((a.toNat : Int) - b.toNat) % 256 := by
  simp only [alu, aluSub, BitVec.toNat_ofInt]
  omega

/-- The ALU's overflow test for a difference, on the sign bits. -/
theorem aluSub_overflow (a b : Byte) : (alu .sub a b).v =
    decide (a.getLsbD 7 ≠ b.getLsbD 7 ∧ (alu .sub a b).r.getLsbD 7 = b.getLsbD 7) := by
  rw [Bool.eq_iff_iff, decide_eq_true_iff]
  simp only [← msb_eq_getLsbD_seven]
  simp [alu, aluSub]

theorem toNat_aluMul (a b : Byte) : (alu .mul a b).r.toNat = (a.toNat * b.toNat) % 256 := by
  simp [alu, aluMul]

/-- The ALU's product is the product of bytes, which reads its operands as signed or as unsigned alike. -/
theorem aluMul_eq_mul (a b : Byte) : (alu .mul a b).r = a * b :=
  BitVec.eq_of_toNat_eq (by rw [toNat_aluMul, BitVec.toNat_mul])

theorem aluMul_eq_ofInt_toInt_mul (a b : Byte) : (alu .mul a b).r = BitVec.ofInt 8 (a.toInt * b.toInt) := by
  rw [aluMul_eq_mul, BitVec.ofInt_mul, BitVec.ofInt_toInt, BitVec.ofInt_toInt]

theorem toNat_aluSll (a k : Byte) :
    (alu .sll a k).r.toNat = if k.toNat ≥ 8 then 0 else (a.toNat * 2 ^ k.toNat) % 256 := by
  simp only [alu, aluSll]
  split
  · rfl
  · simp

/-- From 7 on, every bit of an arithmetic right shift is the sign bit. -/
theorem sshiftRight_eq_signFill (a : Byte) {k : Nat} (hk : 7 ≤ k) :
    a.sshiftRight k = if a.getLsbD 7 then 0xFF else 0x00 := by
  have hbit : ∀ i < 8, (a.sshiftRight k).getLsbD i = a.getLsbD 7 := by
    intro i hi
    rw [BitVec.getLsbD_sshiftRight, msb_eq_getLsbD_seven]
    split
    · have h7 : k + i = 7 := by omega
      simp [h7, hi]
    · simp [hi]
  refine BitVec.eq_of_getLsbD_eq fun i hi => ?_
  rw [hbit i hi]
  split
  next h => rw [h, show (0xFF : Byte) = BitVec.allOnes 8 from rfl, BitVec.getLsbD_allOnes, decide_eq_true hi]
  next h => exact (Bool.eq_false_of_not_eq_true h).trans BitVec.getLsbD_zero.symm

/-- The ALU's two cases of SRA, below 8 and from 8 on, are one arithmetic right shift. -/
theorem aluSra_eq_sshiftRight (a k : Byte) : (alu .sra a k).r = a.sshiftRight k.toNat := by
  simp only [alu, aluSra]
  split
  next hk => rw [sshiftRight_eq_signFill a (by omega), msb_eq_getLsbD_seven]
  next => rw [BitVec.sshiftRight_eq, Int.shiftRight_eq_div_pow, Nat.cast_pow, Nat.cast_ofNat]

theorem toInt_sshiftRight_eq_div (a : Byte) (k : Nat) : (a.sshiftRight k).toInt = a.toInt / 2 ^ k := by
  rw [BitVec.toInt_sshiftRight, Int.shiftRight_eq_div_pow, Nat.cast_pow, Nat.cast_ofNat]

/-- A right shift keeps the sign, and zero has none. -/
theorem sshiftRight_ne_zero_of_neg {a : Byte} (ha : a.toInt < 0) (k : Nat) : a.sshiftRight k ≠ 0x00 := by
  have hmsb : (a.sshiftRight k).msb = true := by
    rw [BitVec.msb_sshiftRight, BitVec.msb_eq_toInt, decide_eq_true ha]
  intro h0
  rw [h0] at hmsb
  exact absurd hmsb (by decide)

/-! ### EX of the ALU class -/

/-- An instruction whose EX is `aluToWb` completes with what the ALU answers: SetFlags gives the five flags, and
EX/WB is the only other thing written. -/
theorem aluCompletes_of_exec {i : Instr} {tag : Tag} {op : AluOp} {rd : RegIdx} {b : Byte} {s : State} {c v : Bool}
    (hexec : exec i s = .next (aluToWb tag op rd b s))
    (hc : (alu op (s.reg rd) b).c = c) (hv : (alu op (s.reg rd) b).v = v) :
    AluCompletes i tag rd s (alu op (s.reg rd) b).r c v := by
  subst hc hv
  refine ⟨_, hexec, ?_⟩
  simp [aluToWb_eq, msb_eq_getLsbD_seven]

/-- Settles O7: the ALU's sum, its carry as the statement has it, and its overflow read off bit 7. -/
theorem addCompletes : Obligations.AddCompletes := fun rd rs s =>
  ⟨_, toNat_aluAdd (s.reg rd) (s.reg rs), aluCompletes_of_exec rfl rfl (aluAdd_overflow _ _)⟩

/-- Settles O8: "equals the second" says "differs from the first" of a bit once these two bits differ. -/
theorem subCompletes : Obligations.SubCompletes := fun rd rs s =>
  ⟨_, toNat_aluSub (s.reg rd) (s.reg rs), fun hab => by rw [Bool.eq_not.mpr hab.symm, Bool.eq_not],
    aluCompletes_of_exec rfl rfl (aluSub_overflow _ _)⟩

/-- Settles O9: the ALU's product is the product of bytes, so its signed reading has that low byte too. -/
theorem mulCompletes : Obligations.MulCompletes := fun rd rs s =>
  ⟨_, toNat_aluMul (s.reg rd) (s.reg rs), aluMul_eq_ofInt_toInt_mul _ _, aluCompletes_of_exec rfl rfl rfl⟩

/-- Settles O10: the ALU's XOR and AND are those of bytes, which act bit by bit. -/
theorem xorAndAndiComplete : Obligations.XorAndAndiComplete := fun _ _ _ _ =>
  ⟨⟨_, fun _ _ => BitVec.getLsbD_xor, aluCompletes_of_exec (op := .xor) rfl rfl rfl⟩,
    ⟨_, fun _ _ => BitVec.getLsbD_and, aluCompletes_of_exec (op := .and) rfl rfl rfl⟩⟩

/-- Settles O11, by the ALU's two cases for the count. -/
theorem sllCompletes : Obligations.SllCompletes := fun rd k s =>
  ⟨_, toNat_aluSll (s.reg rd) k, aluCompletes_of_exec rfl rfl rfl⟩

/-- Settles O12: every clause is a fact about the arithmetic right shift that the ALU's two cases amount to. -/
theorem sraCompletes : Obligations.SraCompletes := by
  intro rd k s a
  have hcompletes : AluCompletes (.sra rd k) .sra rd s (alu .sra a k).r false false :=
    aluCompletes_of_exec rfl rfl rfl
  rw [aluSra_eq_sshiftRight] at hcompletes
  exact ⟨_, fun _ => toInt_sshiftRight_eq_div a k.toNat, fun hk => sshiftRight_eq_signFill a (by omega),
    sshiftRight_eq_signFill a, fun ha => sshiftRight_ne_zero_of_neg ha k.toNat, hcompletes⟩

end Sys2Proof.Machine

/-! The cycle as a whole (70_reset_and_hazards.md R290 to R302): the two forms of the step, the register file
after a step, and the engine state after a step. -/

namespace Sys2Proof.Machine

/-! ### The double-buffered form of the cycle (R290, R295) -/

/-- The pc moves exactly in a cycle whose fetch fills IF/ID (R293). -/
theorem fetchEffect_pc (s : State) (n : Nat) :
    (fetchEffect s n).pc = if (fetchEffect s n).ifid.valid then s.pc + 1 else s.pc := by
  unfold fetchEffect
  split_ifs <;> simp_all

/-- IF in the form of R293 has the effect of the in-place IF, for any state that still has the engine state and
the instruction memory of the start of the cycle. -/
theorem fetchBuffered_eq {s e : State} (he : e.engine = s.engine) (hm : e.imem = s.imem) :
    fetchBuffered s.pc s.engine (stalled s) e =
      { ifid := (fetchEffect s e.cycle).ifid
        fetchedOk := (fetchEffect s e.cycle).ifid.valid
        after :=
          { e with
            engine := (fetchEffect s e.cycle).engine
            diag := e.diag ++ stamped e.cycle (fetchEffect s e.cycle).raised } } := by
  unfold fetchBuffered fetchEffect
  rw [← he, ← hm]
  by_cases hw : e.engine ≠ .running ∨ stalled s = true
  · rw [if_pos hw, if_pos hw]
    simp [stamped]
  · rw [if_neg hw, if_neg hw]
    rcases iFetch_eq s.pc e with ⟨hp, hf⟩ | ⟨hp, hf⟩
    · by_cases hh : readCell e.imem s.pc.toNat = haltWord
      · simp [hf, hp, hh, stamped, State.withEngine]
      · simp [hf, hp, hh, stamped]
    · simp [hf, Nat.not_lt.mpr hp, stamped, State.withEngine]

/-- R290's halt detection changes the engine state alone, as the in-place one does. -/
theorem haltDetection_eq_drainedEngine (v : State) :
    (if v.engine = .draining ∧ ¬ v.ifid.valid ∧ ¬ v.idex.valid ∧ ¬ v.exwb.valid then { v with engine := .halted }
      else v) = { v with engine := drainedEngine v.engine v.ifid v.idex v.exwb } := by
  simp only [drainedEngine, Bool.not_eq_true]
  split <;> rfl

/-- Latching at the end of the cycle gives the state the in-place stages reach. -/
theorem latchBuffered_eq {s : State} (h : s.engine ≠ .halted) (f : ExEffect) :
    latchBuffered s (f.on (writeBack (beginCycle s))) = stepResult s f (fetchEffect s (s.cycle + 1)) := by
  have hg := fetchEffect_engine (n := s.cycle + 1) h
  have hpc := fetchEffect_pc s (s.cycle + 1)
  have hfetch := fetchBuffered_eq (s := s) (e := f.on (writeBack (beginCycle s))) rfl rfl
  rw [show (f.on (writeBack (beginCycle s))).cycle = s.cycle + 1 from rfl] at hfetch
  unfold latchBuffered
  refine (haltDetection_eq_drainedEngine _).trans ?_
  rw [hfetch, stepResult]
  generalize fetchEffect s (s.cycle + 1) = g at hg hpc ⊢
  cases hr : f.redirect with
  | none =>
    simp [hr, hpc, ExEffect.on, writeBack_beginCycle, idResult]
  | some target =>
    have hrun : (if g.engine = .draining then .running else g.engine) = Engine.running := by
      cases he : g.engine <;> simp_all
    simp [hr, hrun, ExEffect.on, writeBack_beginCycle, drainedEngine]

/-- Settles O30: EX is common to the two forms, and what follows it latches to the closed form of the step. -/
theorem inPlaceEqualsDoubleBuffered : Obligations.InPlaceEqualsDoubleBuffered := by
  intro s
  by_cases h : s.engine = .halted
  · rw [step_halted h, stepBuffered, if_pos h]
  · rw [step_eq h, stepBuffered, if_neg h, executeStage_eq, andThen_next, latchBuffered_eq h]

/-! ### The register file after a step (R291) -/

@[simp] theorem stepResult_cfg (s : State) (f : ExEffect) (g : IfEffect) : (stepResult s f g).cfg = s.cfg := by
  unfold stepResult; split <;> rfl

theorem writesReg_iff (t : Tag) :
    writesReg t = true ↔ t ∈ [Tag.add, .sub, .mul, .xor, .andi, .sll, .sra, .load, .movi] := by
  cases t <;> decide

/-- A register after WB: EX/WB's result where EX/WB writes, what it was elsewhere. -/
theorem reg_writeBack (s : State) (i : RegIdx) :
    (writeBack s).reg i =
      if s.exwb.valid = true ∧ writesReg s.exwb.tag = true ∧ s.exwb.rd = i ∧ ¬(s.cfg.r0Zero = true ∧ i = 0)
      then s.exwb.result else s.reg i := by
  by_cases hw : s.exwb.valid = true ∧ writesReg s.exwb.tag = true
  · have hwb : writeBack s = s.setReg s.exwb.rd s.exwb.result := by simp [writeBack, hw, ← setReg_eq]
    rw [hwb, reg_setReg]
    by_cases hi : s.exwb.rd = i
    · subst hi
      simp [hw]
    · simp [hi]
  · have hwb : writeBack s = s := by
      simp only [writeBack, Bool.and_eq_true, if_neg hw]
      rfl
    rw [hwb, if_neg fun hc => hw ⟨hc.1, hc.2.1⟩]

/-- Settles O23: a step leaves the register file and the configuration as its WB left them. -/
theorem registersWrittenByWbOnly : Obligations.RegistersWrittenByWbOnly := by
  intro s t ht hs i
  obtain rfl := eq_stepResult hs ht
  simp only [← writesReg_iff]
  rw [← reg_writeBack]
  exact reg_congr (s := writeBack s) (stepResult_cfg s _ _) (stepResult_rf s _ _) i

/-! ### The engine state after a step (R297, R300) -/

/-- A flush leaves the engine RUNNING. -/
theorem stepResult_engine_of_redirect {f : ExEffect} {target : Word} (h : f.redirect = some target) (s : State)
    (g : IfEffect) : (stepResult s f g).engine = .running := by
  simp [stepResult, h]

/-- With no flush, halt detection looks at the pipeline as the cycle leaves it. -/
theorem stepResult_engine_of_no_redirect {f : ExEffect} (h : f.redirect = none) (s : State) (g : IfEffect) :
    (stepResult s f g).engine =
      if g.engine = .draining ∧ pipelineEmpty (stepResult s f g) = true then .halted else g.engine := by
  simp [stepResult, h, drainedEngine, pipelineEmpty, and_assoc]

/-- Settles O34: a cycle with a flush ends RUNNING, and one without leaves HALTED or DRAINING as its halt detection
saw the pipeline; IF alone never enters HALTED. -/
theorem haltedIsTerminalAndEmpty : Obligations.HaltedIsTerminalAndEmpty := by
  refine ⟨fun s => step_halted, fun s t hs ht => ?_⟩
  obtain rfl := eq_stepResult hs ht
  have hg := fetchEffect_engine (n := s.cycle + 1) hs
  rw [flushTaken_eq]
  generalize stageEffect (writeBack (beginCycle s)) = f
  generalize fetchEffect s (s.cycle + 1) = g at hg ⊢
  cases hr : f.redirect with
  | some target => simp [stepResult_engine_of_redirect hr]
  | none =>
    rw [stepResult_engine_of_no_redirect hr]
    split
    next hd => simp [hd]
    next hd =>
      refine ⟨fun h => absurd h hg, fun h => ?_⟩
      exact Bool.eq_false_of_not_eq_true fun hp => hd ⟨h, hp⟩

end Sys2Proof.Machine

/-! Decoding and encoding as inverses (30_encoding.md): a word is its three fields, an instruction other than HALT is
its tag with those fields, and the opcode map goes both ways. -/

namespace Sys2Proof

/-! ### A word is its fields -/

theorem toNat_opcField (w : Word) : (opcField w).toNat = w.toNat / 4096 := by
  simp only [opcField, BitVec.extractLsb'_toNat, Nat.shiftRight_eq_div_pow]
  omega

theorem toNat_f1Field (w : Word) : (f1Field w).toNat = w.toNat / 64 % 64 := by
  simp only [f1Field, BitVec.extractLsb'_toNat, Nat.shiftRight_eq_div_pow]

theorem toNat_f2Field (w : Word) : (f2Field w).toNat = w.toNat % 64 := by
  simp only [f2Field, BitVec.extractLsb'_toNat, Nat.shiftRight_eq_div_pow]
  omega

theorem encodeFields_fields (w : Word) : encodeFields (opcField w) (f1Field w) (f2Field w) = w := by
  apply BitVec.eq_of_toNat_eq
  rw [toNat_encodeFields, toNat_opcField, toNat_f1Field, toNat_f2Field]
  omega

/-- A word whose opcode is not 15 is not the sentinel. -/
theorem encodeFields_ne_haltWord {o : Opcode} (ho : o ≠ 15) (a b : BitVec 6) : encodeFields o a b ≠ haltWord := by
  rw [haltWord_eq_encodeFields]
  exact fun h => ho (encodeFields_inj.1 h).1

/-! ### The opcode map, by tag -/

/-- The opcode the map gives an operation. UNKNOWN has none: it stands here with the one opcode no legal map gives. -/
def OpcodeMap.codeOf (m : OpcodeMap) : Tag → Opcode
  | .add => m.add
  | .sub => m.sub
  | .mul => m.mul
  | .xor => m.xor
  | .andi => m.andi
  | .sll => m.sll
  | .sra => m.sra
  | .load => m.load
  | .store => m.store
  | .beqz => m.beqz
  | .jr => m.jr
  | .movi => m.movi
  | .unknown => 15

/-- The tags of the operations a configuration has: all but UNKNOWN, MOVI if enabled (R95). -/
def Config.defines (c : Config) (t : Tag) : Prop := t ≠ .unknown ∧ (t = .movi → c.moviEnabled = true)

/-- The table of assigned opcodes lists each defined operation with its opcode, and nothing else. -/
theorem mem_assigned_iff (c : Config) (o : Opcode) (t : Tag) :
    (o, t) ∈ c.assigned ↔ c.defines t ∧ o = c.opcodeMap.codeOf t := by
  unfold Config.assigned Config.defines
  cases hm : c.moviEnabled <;> cases t <;> simp [OpcodeMap.codeOf]

theorem tagOf_codeOf {c : Config} (hc : c.wf = true) {t : Tag} (ht : c.defines t) :
    c.tagOf (c.opcodeMap.codeOf t) = t :=
  Config.tagOf_of_mem hc ((mem_assigned_iff c _ t).2 ⟨ht, rfl⟩)

theorem codeOf_ne_fifteen {c : Config} (hc : c.wf = true) {t : Tag} (ht : c.defines t) :
    c.opcodeMap.codeOf t ≠ 15 :=
  Config.ne_fifteen_of_wf hc ((mem_assigned_iff c _ t).2 ⟨ht, rfl⟩)

/-- An opcode that does not decode to UNKNOWN is the one of a defined operation. -/
theorem defines_of_tagOf {c : Config} {o : Opcode} (h : c.tagOf o ≠ .unknown) :
    c.defines (c.tagOf o) ∧ o = c.opcodeMap.codeOf (c.tagOf o) :=
  (mem_assigned_iff c o _).1 (mem_of_lookupTag rfl h)

/-! ### An instruction is its tag with the fields of its word -/

/-- The instruction of a tag, an opcode and two operand fields. -/
def fieldInstr (t : Tag) (o : Opcode) (f1 f2 : BitVec 6) : Instr :=
  IdEx.instr ⟨true, o, t, f1, f2, kindOf t, immOf (kindOf t) f2, 0⟩

theorem decode_encodeFields (c : Config) {o : Opcode} {a b : BitVec 6} (h : encodeFields o a b ≠ haltWord) :
    decode c (encodeFields o a b) = fieldInstr (c.tagOf o) o a b := by
  rw [decode, if_neg h, decodeIdEx, Laws.opcField_encodeFields, Laws.f1Field_encodeFields,
    Laws.f2Field_encodeFields]
  rfl

theorem decode_codeOf {c : Config} (hc : c.wf = true) {t : Tag} (ht : c.defines t) (a b : BitVec 6) :
    decode c (encodeFields (c.opcodeMap.codeOf t) a b) = fieldInstr t (c.opcodeMap.codeOf t) a b := by
  rw [decode_encodeFields c (encodeFields_ne_haltWord (codeOf_ne_fifteen hc ht) a b), tagOf_codeOf hc ht]

/-- Encoding drops nothing of the fields, since the low bits of an extended immediate are its field. -/
theorem encode_fieldInstr (c : Config) {t : Tag} (ht : t ≠ .unknown) (o : Opcode) (a b : BitVec 6) :
    encode c (fieldInstr t o a b) = encodeFields (c.opcodeMap.codeOf t) a b := by
  cases t with
  | unknown => exact absurd rfl ht
  | andi => exact congrArg (encodeFields c.opcodeMap.andi a) (immField_sext8 b).1
  | beqz => exact congrArg (encodeFields c.opcodeMap.beqz a) (immField_sext8 b).1
  | movi => exact congrArg (encodeFields c.opcodeMap.movi a) (immField_sext8 b).1
  | sll => exact congrArg (encodeFields c.opcodeMap.sll a) (immField_zext8 b).1
  | sra => exact congrArg (encodeFields c.opcodeMap.sra a) (immField_zext8 b).1
  | add | sub | mul | xor | load | store | jr => rfl

/-- The instruction of a defined tag is well formed, since an extended field is in its range. -/
theorem fieldInstr_wf {c : Config} {t : Tag} (ht : c.defines t) (o : Opcode) (a b : BitVec 6) :
    (fieldInstr t o a b).wf c = true := by
  cases t with
  | unknown => exact absurd rfl ht.1
  | andi => exact (immField_sext8 b).2
  | beqz => exact (immField_sext8 b).2
  | movi => exact Bool.and_eq_true_iff.2 ⟨ht.2 rfl, (immField_sext8 b).2⟩
  | sll => exact (immField_zext8 b).2
  | sra => exact (immField_zext8 b).2
  | add | sub | mul | xor | load | store | jr => rfl

/-- Settles O2: for a defined operation the map gives the tag back and an in-range immediate is the extension of its
field; HALT and UNKNOWN carry their own words. -/
theorem decodeInvertsEncode : Obligations.DecodeInvertsEncode := by
  intro c i hc hi
  have hdef : ∀ t : Tag, t ≠ .unknown → t ≠ .movi → ∀ a b : BitVec 6,
      decode c (encodeFields (c.opcodeMap.codeOf t) a b) = fieldInstr t (c.opcodeMap.codeOf t) a b :=
    fun t hu hm a b => decode_codeOf hc ⟨hu, fun h => absurd h hm⟩ a b
  cases i with
  | add rd rs => exact hdef .add (by decide) (by decide) rd rs
  | sub rd rs => exact hdef .sub (by decide) (by decide) rd rs
  | mul rd rs => exact hdef .mul (by decide) (by decide) rd rs
  | xor rd rs => exact hdef .xor (by decide) (by decide) rd rs
  | load rd addr => exact hdef .load (by decide) (by decide) rd addr
  | store rs addr => exact hdef .store (by decide) (by decide) rs addr
  | jr rh rl => exact hdef .jr (by decide) (by decide) rh rl
  | andi rd imm => exact (hdef .andi (by decide) (by decide) rd _).trans (congrArg _ (sext8_immField hi))
  | beqz rs disp => exact (hdef .beqz (by decide) (by decide) rs _).trans (congrArg _ (sext8_immField hi))
  | sll rd k => exact (hdef .sll (by decide) (by decide) rd _).trans (congrArg _ (zext8_immField hi))
  | sra rd k => exact (hdef .sra (by decide) (by decide) rd _).trans (congrArg _ (zext8_immField hi))
  | movi rd imm =>
    obtain ⟨hon, himm⟩ := Bool.and_eq_true_iff.1 hi
    exact (decode_codeOf hc (t := .movi) ⟨by decide, fun _ => hon⟩ rd _).trans (congrArg _ (sext8_immField himm))
  | halt => rfl
  | unknown opc f1 f2 =>
    obtain ⟨htag, hne⟩ := Bool.and_eq_true_iff.1 hi
    exact (decode_encodeFields c (of_decide_eq_true hne)).trans (by rw [of_decide_eq_true htag]; rfl)

/-- Settles O3: a word other than the sentinel is its fields; its opcode is that of the operation it decodes to, or
the word is UNKNOWN and carries the fields as they are. -/
theorem encodeInvertsDecode : Obligations.EncodeInvertsDecode := by
  intro c w _
  by_cases hw : w = haltWord
  · subst hw
    exact ⟨rfl, rfl⟩
  obtain ⟨o, a, b, rfl⟩ : ∃ o a b, w = encodeFields o a b := ⟨_, _, _, (encodeFields_fields w).symm⟩
  rw [decode_encodeFields c hw]
  by_cases hu : c.tagOf o = .unknown
  · rw [hu]
    exact ⟨Bool.and_eq_true_iff.2 ⟨decide_eq_true hu, decide_eq_true hw⟩, rfl⟩
  · obtain ⟨hdef, hcode⟩ := defines_of_tagOf hu
    refine ⟨fieldInstr_wf hdef o a b, ?_⟩
    rw [encode_fieldInstr c hu, ← hcode]

/-! ### HALT and UNKNOWN (R101) -/

theorem decode_eq_halt_iff (c : Config) (w : Word) : decode c w = .halt ↔ w = haltWord := by
  unfold decode
  split
  next h => exact iff_of_true rfl h
  next h => exact iff_of_false (IdEx.instr_ne_halt _) h

theorem fieldInstr_eq_unknown_iff (t : Tag) (p : Opcode) (x y : BitVec 6) :
    (∃ o a b, fieldInstr t p x y = .unknown o a b) ↔ t = .unknown := by
  cases t <;> simp [fieldInstr, IdEx.instr]

theorem decode_eq_unknown_iff (c : Config) (w : Word) :
    (∃ o a b, decode c w = .unknown o a b) ↔ w ≠ haltWord ∧ c.tagOf (opcField w) = .unknown := by
  by_cases hw : w = haltWord
  · simp [hw, decode]
  · have hdec : decode c w = fieldInstr (c.tagOf (opcField w)) (opcField w) (f1Field w) (f2Field w) := if_neg hw
    rw [hdec, fieldInstr_eq_unknown_iff, and_iff_right hw]

/-- The opcodes without an operation under this spec's map (D2). -/
theorem tagOf_default_eq_unknown_iff (o : Opcode) : Config.default.tagOf o = .unknown ↔ 11 ≤ o.toNat := by
  revert o; decide

/-- The tags of the opcodes 0 to 10 under this spec's map (D2). -/
theorem tagOf_default_mem {o : Opcode} (h : o.toNat ≤ 10) : Config.default.tagOf o ∈
    [Tag.add, .sub, .mul, .xor, .andi, .sll, .sra, .load, .store, .beqz, .jr] := by
  revert o; decide

/-- Settles O4: the sentinel alone is HALT, and any other word is what the map makes of its opcode. -/
theorem everyWordIsHaltDefinedOrUnknown : Obligations.EveryWordIsHaltDefinedOrUnknown := by
  intro w
  refine ⟨decode_eq_halt_iff _ w, ?_, fun h => ?_⟩
  · rw [decode_eq_unknown_iff, tagOf_default_eq_unknown_iff, toNat_opcField]
    rfl
  · exact tagOf_default_mem (by rwa [toNat_opcField])

/-! ### Immediates (R97, R98) -/

theorem kindOf_eq_none {t : Tag} (h : t ∈ [Tag.add, .sub, .mul, .xor, .jr, .unknown]) : kindOf t = .none := by
  revert t; decide

theorem kindOf_eq_signed6 {t : Tag} (h : t ∈ [Tag.andi, .beqz, .movi]) : kindOf t = .signed6 := by
  revert t; decide

theorem kindOf_eq_unsigned6 {t : Tag} (h : t ∈ [Tag.sll, .sra, .load, .store]) : kindOf t = .unsigned6 := by
  revert t; decide

theorem toInt_sext8 (f : BitVec 6) : (sext8 f).toInt = f.toInt := BitVec.toInt_signExtend_of_le (by decide)

theorem toNat_zext8 (f : BitVec 6) : (zext8 f).toNat = f.toNat := BitVec.toNat_setWidth_of_le (by decide)

/-- Settles O5: the tag fixes the kind, and the kind how the low field is extended. -/
theorem immediateFollowsTheTag : Obligations.ImmediateFollowsTheTag := by
  intro c w pc d
  have himm : d.imm = immOf (kindOf d.tag) (f2Field w) := rfl
  refine ⟨fun ht => ?_, fun ht => ?_, fun ht => ?_⟩
  · have hk : kindOf d.tag = .none := kindOf_eq_none ht
    exact ⟨hk, by rw [himm, hk]; rfl⟩
  · have hk : kindOf d.tag = .signed6 := kindOf_eq_signed6 ht
    have hi : d.imm.toInt = (f2Field w).toInt := by rw [himm, hk]; exact toInt_sext8 _
    have hlo := BitVec.le_toInt (f2Field w)
    have hhi := BitVec.toInt_lt (x := f2Field w)
    exact ⟨hk, hi, by omega, by omega⟩
  · have hk : kindOf d.tag = .unsigned6 := kindOf_eq_unsigned6 ht
    have hi : d.imm.toNat = (f2Field w).toNat := by rw [himm, hk]; exact toNat_zext8 _
    rw [toNat_f2Field] at hi
    exact ⟨hk, hi, by omega⟩

/-- Settles O6, by decoding each word. -/
theorem sampleWordsDecode : Obligations.SampleWordsDecode := by
  unfold Obligations.SampleWordsDecode
  decide

end Sys2Proof

/-! What EX of each instruction answers outside the arithmetic of the ALU (42 to 44), and what it leaves alone. -/

namespace Sys2Proof.Machine

/-! ### The effect of one instruction, part by part -/

/-- The redirect of a BEQZ whose register reads `b`. -/
def beqzEffect (b : Byte) (target : Int) (pc : Word) : List Diag × Option Word :=
  if b = 0x00 then redirectEffect target pc else ([], none)

section
variable (i : Instr) (x : RegIdx → Byte) (sreg : Byte) (dmem : List Host.Cell) (pc : Word)

/-- BEQZ in the form of the other instructions: its condition decides the redirect alone. -/
theorem exEffect_beqz (r : RegIdx) (d : Byte) :
    exEffect (.beqz r d) x sreg dmem pc =
      ⟨sreg, dmem, (beqzEffect (x r) (branchTarget pc d) pc).1, idleExWb .beqz r,
        (beqzEffect (x r) (branchTarget pc d) pc).2⟩ := by
  change (if x r = 0x00 then _ else _) = _
  unfold beqzEffect
  split <;> rfl

theorem exEffect_exwb_valid : (exEffect i x sreg dmem pc).exwb.valid = true := by
  cases i with
  | beqz r d => rw [exEffect_beqz]; rfl
  | _ => rfl

variable {i}

theorem exEffect_dmem (h : ∀ r a, i ≠ .store r a) : (exEffect i x sreg dmem pc).dmem = dmem := by
  cases i with
  | store r a => exact absurd rfl (h r a)
  | beqz r d => rw [exEffect_beqz]
  | _ => rfl

theorem exEffect_redirect (hb : ∀ r d, i ≠ .beqz r d) (hj : ∀ h l, i ≠ .jr h l) :
    (exEffect i x sreg dmem pc).redirect = none := by
  cases i with
  | beqz r d => exact absurd rfl (hb r d)
  | jr h l => exact absurd rfl (hj h l)
  | _ => rfl

theorem exEffect_raised (hb : ∀ r d, i ≠ .beqz r d) (hj : ∀ h l, i ≠ .jr h l) (hu : ∀ o a b, i ≠ .unknown o a b) :
    (exEffect i x sreg dmem pc).raised = [] := by
  cases i with
  | beqz r d => exact absurd rfl (hb r d)
  | jr h l => exact absurd rfl (hj h l)
  | unknown o a b => exact absurd rfl (hu o a b)
  | _ => rfl

end

theorem stamped_nil (n : Nat) : stamped n [] = [] := rfl

/-- An effect without a diagnostic and without a redirect writes SREG, data memory and EX/WB alone. -/
theorem ExEffect.on_quiet {f : ExEffect} (hraised : f.raised = []) (hredirect : f.redirect = none) (s : State) :
    f.on s = { s with sreg := f.sreg, dmem := f.dmem, exwb := f.exwb } := by
  simp [ExEffect.on, hraised, hredirect, stamped_nil]

/-! ### The sign of an exact sum and an exact difference (R130) -/

theorem aluAdd_eq_add (a b : Byte) : (alu .add a b).r = a + b :=
  BitVec.eq_of_toNat_eq (by rw [toNat_aluAdd, BitVec.toNat_add])

theorem aluSub_eq_sub (a b : Byte) : (alu .sub a b).r = a - b := by
  apply BitVec.eq_of_toNat_eq
  have hr := toNat_aluSub a b
  rw [BitVec.toNat_sub]
  omega

/-- The sum's sign bit is wrong exactly on overflow, and S corrects it. -/
theorem aluAdd_sign (a b : Byte) :
    ((alu .add a b).r.msb ^^ (alu .add a b).v) = decide (a.toInt + b.toInt < 0) := by
  have hr : (alu .add a b).r.toInt = (a.toInt + b.toInt).bmod 256 := by rw [aluAdd_eq_add, BitVec.toInt_add]
  have hv : (alu .add a b).v = ((a.msb == b.msb) && ((alu .add a b).r.msb != a.msb)) := rfl
  have ha := BitVec.le_toInt a
  have ha' := BitVec.toInt_lt (x := a)
  have hb := BitVec.le_toInt b
  have hb' := BitVec.toInt_lt (x := b)
  rw [hv, Bool.eq_iff_iff, Bool.xor_iff_ne, ne_eq, Bool.eq_iff_iff]
  simp only [Bool.and_eq_true, beq_iff_eq, bne_iff_ne, ne_eq, BitVec.msb_eq_toInt, decide_eq_decide,
    decide_eq_true_iff, hr, Int.bmod_def]
  omega

/-- The difference's sign bit is wrong exactly on overflow, and S corrects it. -/
theorem aluSub_sign (a b : Byte) :
    ((alu .sub a b).r.msb ^^ (alu .sub a b).v) = decide (a.toInt < b.toInt) := by
  have hr : (alu .sub a b).r.toInt = (a.toInt - b.toInt).bmod 256 := by rw [aluSub_eq_sub, BitVec.toInt_sub]
  have hv : (alu .sub a b).v = ((a.msb != b.msb) && ((alu .sub a b).r.msb == b.msb)) := rfl
  have ha := BitVec.le_toInt a
  have ha' := BitVec.toInt_lt (x := a)
  have hb := BitVec.le_toInt b
  have hb' := BitVec.toInt_lt (x := b)
  rw [hv, Bool.eq_iff_iff, Bool.xor_iff_ne, ne_eq, Bool.eq_iff_iff]
  simp only [Bool.and_eq_true, beq_iff_eq, bne_iff_ne, ne_eq, BitVec.msb_eq_toInt, decide_eq_decide,
    decide_eq_true_iff, hr, Int.bmod_def]
  omega

/-- Settles O13: S is N XOR V, which is the sign of the exact result for a sum and for a difference. -/
theorem signFlagIsTheExactSign : Obligations.SignFlagIsTheExactSign := by
  intro rd rs s t
  refine ⟨fun h => ?_, fun h => ?_⟩
  · obtain rfl := Host.Outcome.next.inj h
    rw [aluToWb_eq, flagS_setFlags, aluAdd_sign, decide_eq_true_iff]
  · obtain rfl := Host.Outcome.next.inj h
    rw [aluToWb_eq, flagS_setFlags, aluSub_sign, decide_eq_true_iff]

/-! ### MOVI, LOAD, STORE -/

/-- Settles O14: EX of MOVI is one write of EX/WB. -/
theorem moviCompletes : Obligations.MoviCompletes := fun _ _ _ => ⟨_, rfl, rfl, rfl⟩

/-- Settles O15: LOAD's address is in range, so its read raises nothing. -/
theorem loadCompletes : Obligations.LoadCompletes := by
  intro rd addr s
  have hexec := (exec_eq s (i := .load rd addr) nofun).trans (congrArg _ (ExEffect.on_quiet rfl rfl s))
  exact ⟨_, hexec, rfl, rfl, congrArg _ (dataAddr_toNat addr), rfl, rfl, dataAddr_toNat addr, rfl⟩

/-- Settles O16: STORE's address is in range, so it is one write of a cell. -/
theorem storeCompletes : Obligations.StoreCompletes := by
  intro rs addr s hwf
  have hexec := (exec_eq s (i := .store rs addr) nofun).trans (congrArg _ (ExEffect.on_quiet rfl rfl s))
  refine ⟨_, hexec, fun a => ?_, dataAddr_toNat addr, ?_, rfl, rfl⟩
  · exact (readCell_writeCell dmemBytes s.dmem hwf _ _ a).trans (if_congr eq_comm rfl rfl)
  · exact wf_writeCell dmemBytes s.dmem hwf _ (dataAddr_lt addr) _

/-! ### BEQZ and JR -/

/-- Settles O17: a taken branch is a redirect, which is a flush inside IMEM and a diagnostic outside it. -/
theorem beqzCompletes : Obligations.BeqzCompletes := by
  intro rs disp s target
  by_cases hz : s.reg rs = 0x00
  · have hexec : exec (.beqz rs disp) s = .next ((redirect target s).withExWb (idleExWb .beqz rs)) :=
      congrArg (fun u : State => Host.Outcome.next (u.withExWb (idleExWb .beqz rs))) (if_pos hz)
    rcases redirect_cases target s with ⟨h0, h1, hred⟩ | ⟨hn, hred⟩
    · rw [hred] at hexec
      exact ⟨_, hexec, rfl, fun h => absurd hz h, fun _ _ => ⟨_, toNat_target h0 h1, rfl⟩,
        fun _ hr => absurd ⟨h0, h1⟩ hr⟩
    · rw [hred] at hexec
      exact ⟨_, hexec, rfl, fun h => absurd hz h, fun _ hr => absurd hr hn, fun _ _ => rfl⟩
  · have hexec : exec (.beqz rs disp) s = .next (s.withExWb (idleExWb .beqz rs)) :=
      congrArg (fun u : State => Host.Outcome.next (u.withExWb (idleExWb .beqz rs))) (if_neg hz)
    exact ⟨_, hexec, rfl, fun _ => rfl, fun h => absurd h hz, fun h => absurd h hz⟩

theorem jumpTarget_eq (h l : Byte) : jumpTarget h l = ((256 * h.toNat + l.toNat : Nat) : Int) := by
  have hl : l.toNat < 2 ^ 8 := l.isLt
  rw [jumpTarget, BitVec.toNat_append, ← Nat.shiftLeft_add_eq_or_of_lt hl, Nat.shiftLeft_eq, Nat.mul_comm]

/-- Settles O18: a jump is a redirect to 256 times the one register plus the other. -/
theorem jrCompletes : Obligations.JrCompletes := by
  intro rh rl s target
  have hl : (s.reg rl).toNat < 2 ^ 8 := (s.reg rl).isLt
  have hexec : exec (.jr rh rl) s = .next ((redirect target s).withExWb (idleExWb .jr rh)) :=
    congrArg (fun x => Host.Outcome.next ((redirect x s).withExWb (idleExWb .jr rh))) (jumpTarget_eq _ _)
  rcases redirect_cases target s with ⟨h0, h1, hred⟩ | ⟨hn, hred⟩
  · rw [hred] at hexec
    exact ⟨_, hexec, rfl, fun _ => ⟨_, Int.ofNat.inj (toNat_target h0 h1), rfl⟩, fun hr => by omega, by omega⟩
  · rw [hred] at hexec
    exact ⟨_, hexec, rfl, fun hr => by omega, fun _ => rfl, by omega⟩

/-! ### HALT and UNKNOWN -/

/-- Settles O19: IF's action on the sentinel writes the engine state and IF/ID. -/
theorem haltCompletes : Obligations.HaltCompletes := fun _ => ⟨_, rfl, rfl, rfl, rfl⟩

/-- Settles O20: EX of UNKNOWN is one diagnostic and one write of EX/WB. -/
theorem unknownCompletes : Obligations.UnknownCompletes := fun _ _ _ _ => ⟨_, rfl, rfl, rfl⟩

/-! ### The frame of EX -/

/-- Settles O21: an instruction other than HALT writes what its effect lists, HALT only the engine state and IF/ID. -/
theorem execFrame : Obligations.ExecFrame := by
  intro i s t h
  by_cases hi : i = .halt
  · subst hi
    obtain rfl := Host.Outcome.next.inj h
    exact ⟨fun _ _ => rfl, fun _ => rfl, rfl, rfl, rfl, rfl, rfl, rfl, rfl, fun hne => absurd rfl hne, fun _ => rfl,
      fun _ _ => ⟨rfl, fun _ => rfl⟩⟩
  · rw [exec_eq s hi] at h
    obtain rfl := Host.Outcome.next.inj h
    refine ⟨fun hs a => ?_, fun _ => rfl, rfl, rfl, rfl, rfl, rfl, rfl, rfl,
      fun _ => ⟨rfl, rfl, exEffect_exwb_valid i _ _ _ _⟩, fun he => absurd he hi, fun hb hj => ⟨?_, fun hu => ?_⟩⟩
    · exact congrArg (readCell · a) (exEffect_dmem s.reg s.sreg s.dmem s.idex.pc hs)
    · simp only [ExEffect.on, exEffect_redirect s.reg s.sreg s.dmem s.idex.pc hb hj, Option.orElse_none]
    · simp only [ExEffect.on, exEffect_raised s.reg s.sreg s.dmem s.idex.pc hb hj hu, stamped_nil, List.append_nil]

end Sys2Proof.Machine

/-! Memories and registers with their bounds checks, reset, launch, the host's interfaces and the controller
(20_memory.md, 10_state.md, 60_exceptions.md, 70 R310). -/

namespace Sys2Proof.Machine

/-! ### The bounds checks of the memories -/

theorem memRead_of_lt {a : Nat} (h : a < dmemBytes) (t : Stamp) (s : State) :
    memRead t a s = (readCell s.dmem a, s) := if_pos h

theorem memRead_of_le {a : Nat} (h : dmemBytes ≤ a) (t : Stamp) (s : State) :
    memRead t a s = (0x00, s.log ⟨t, .dmemAddrOob a⟩) := if_neg (Nat.not_lt.mpr h)

theorem memWrite_of_lt {a : Nat} (h : a < dmemBytes) (t : Stamp) (v : Byte) (s : State) :
    memWrite t a v s = s.withDmem (writeCell s.dmem a v) := if_pos h

theorem memWrite_of_le {a : Nat} (h : dmemBytes ≤ a) (t : Stamp) (v : Byte) (s : State) :
    memWrite t a v s = s.log ⟨t, .dmemAddrOob a⟩ := if_neg (Nat.not_lt.mpr h)

/-- Settles O46, by the bounds check. -/
theorem memReadBoundsCheck : Obligations.MemReadBoundsCheck := fun t _ s =>
  ⟨fun h => memRead_of_lt h t s, fun h => memRead_of_le h t s⟩

/-- Settles O47: in range a write is one write of a cell, and an address out of range reads 0x00 before and after. -/
theorem memWriteBoundsCheck : Obligations.MemWriteBoundsCheck := by
  intro t a v s hwf
  refine ⟨fun h b => ?_, fun h => ?_, fun h => memWrite_of_le h t v s⟩
  · rw [memWrite_of_lt h]
    by_cases hb : b < dmemBytes
    · rw [memRead_of_lt hb, memRead_of_lt hb]
      exact (readCell_writeCell dmemBytes s.dmem hwf a v b).trans (if_congr eq_comm rfl rfl)
    · have hba : b ≠ a := fun heq => hb (heq ▸ h)
      rw [memRead_of_le (Nat.le_of_not_lt hb), memRead_of_le (Nat.le_of_not_lt hb), if_neg hba]
  · rw [memWrite_of_lt h]
    rfl

/-- Settles O48, by the bounds check. -/
theorem iFetchBoundsCheck : Obligations.IFetchBoundsCheck := by
  intro a s
  rcases iFetch_eq a s with ⟨hlt, heq⟩ | ⟨hle, heq⟩
  · exact ⟨fun _ => heq, fun h => by omega⟩
  · exact ⟨fun h => by omega, fun _ => heq⟩

/-! ### The canonical form is unique (log 11) -/

section
variable {n size : Nat}

/-- The first listed cell of a memory in canonical form does not read as an unlisted one. -/
theorem readCell_head_ne {k : Nat} {v : BitVec n} {m : List (Nat × BitVec n)}
    (h : Memory.wf size ((k, v) :: m) = true) : readCell ((k, v) :: m) k ≠ unlisted n := by
  rw [readCell_cons, if_pos rfl]
  exact ((wf_cons size k v m).1 h).2.1

/-- Below its first listed address a memory reads as unlisted, so a memory that reads alike starts no lower. -/
theorem head_le_head {k l : Nat} {v x : BitVec n} {m p : List (Nat × BitVec n)}
    (hm : Memory.wf size ((k, v) :: m) = true) (hp : Memory.wf size ((l, x) :: p) = true)
    (h : ∀ a, readCell ((k, v) :: m) a = readCell ((l, x) :: p) a) : l ≤ k := by
  obtain ⟨-, -, hlt, -⟩ := (wf_cons size l x p).1 hp
  by_contra hkl
  refine readCell_head_ne hm ((h k).trans (readCell_below _ k fun c hc => ?_))
  rcases List.mem_cons.1 hc with rfl | hc
  · exact Nat.lt_of_not_le hkl
  · exact Nat.lt_trans (Nat.lt_of_not_le hkl) (hlt c hc)

/-- Memories with equal first cells that read alike have rests that read alike. -/
theorem readCell_tail_eq {k : Nat} {v : BitVec n} {m p : List (Nat × BitVec n)} (hm : ∀ c ∈ m, k < c.1)
    (hp : ∀ c ∈ p, k < c.1) (h : ∀ a, readCell ((k, v) :: m) a = readCell ((k, v) :: p) a) (a : Nat) :
    readCell m a = readCell p a := by
  by_cases hka : k = a
  · rw [← hka, readCell_below m k hm, readCell_below p k hp]
  · simpa only [readCell_cons, if_neg hka] using h a

end

/-- Settles O49, by induction on both lists: their first cells agree, and so do their rests. -/
theorem canonicalMemoriesAreEqual : Obligations.CanonicalMemoriesAreEqual := by
  intro n size m
  induction m with
  | nil =>
    intro m' _ hm' h
    cases m' with
    | nil => rfl
    | cons c p => exact absurd (h c.1).symm (readCell_head_ne hm')
  | cons c m ih =>
    intro m' hm hm' h
    obtain ⟨k, v⟩ := c
    cases m' with
    | nil => exact absurd (h k) (readCell_head_ne hm)
    | cons d p =>
      obtain ⟨l, x⟩ := d
      obtain rfl : k = l := Nat.le_antisymm (head_le_head hm' hm fun a => (h a).symm) (head_le_head hm hm' h)
      obtain rfl : v = x := by simpa only [readCell_cons, if_pos] using h k
      obtain ⟨-, -, hlt, hwf⟩ := (wf_cons size k v m).1 hm
      obtain ⟨-, -, hlt', hwf'⟩ := (wf_cons size k v p).1 hm'
      rw [ih p hwf hwf' (readCell_tail_eq hlt hlt' h)]

/-! ### Registers -/

/-- A write that is not discarded sets its register and no other. -/
theorem reg_setReg_of_kept {s : State} {i : RegIdx} (h : ¬(s.cfg.r0Zero = true ∧ i = 0)) (j : RegIdx) (v : Byte) :
    (s.setReg i v).reg j = if j = i then v else s.reg j := by
  rw [reg_setReg]
  exact if_congr ⟨fun hij => hij.1.symm, fun hij => ⟨hij.symm, h⟩⟩ rfl rfl

/-- Settles O50: a write is discarded by a hard-wired register 0 and kept by any other. -/
theorem registerReadAfterWrite : Obligations.RegisterReadAfterWrite := by
  intro s i j v
  refine ⟨fun h => reg_setReg_of_kept (fun hz => ?_) j v, fun h => ⟨setReg_discarded ⟨h, rfl⟩ v, ?_, fun hi => ?_⟩, rfl⟩
  · exact Bool.false_ne_true (h.symm.trans hz.1)
  · simp [State.reg, h]
  · exact reg_setReg_of_kept (fun hz => hi hz.2) j v

/-- Settles O53, by the bounds check and the law of a read after a write. -/
theorem hostRegisterAccess : Obligations.HostRegisterAccess := by
  intro i v s
  refine ⟨fun h => ?_, fun h => ?_⟩
  · have hr : ∀ u : State, hostReadReg i u = (u.reg (BitVec.ofNat 6 i), u) := fun _ => if_pos h
    have hw : hostWriteReg i v s = s.setReg (BitVec.ofNat 6 i) v := if_pos h
    exact ⟨hr s, hw, fun h0 => by rw [hr, hw, reg_setReg_of_kept (by simp [h0]), if_pos rfl]⟩
  · exact ⟨if_neg (Nat.not_lt.mpr h), if_neg (Nat.not_lt.mpr h)⟩

/-! ### Reset -/

/-- Settles O51: the reset state is written out, and its register file is zero throughout. -/
theorem resetValues : Obligations.ResetValues := by
  refine ⟨fun i => ?_, ?_⟩
  · simp [State.reg, State.reset, State.resetWith]
  · exact ⟨rfl, rfl, rfl, rfl, rfl, rfl, rfl, rfl, rfl, rfl, rfl, rfl, rfl, rfl, rfl, rfl, rfl, rfl,
      fun _ => rfl, rfl, rfl⟩

/-! ### The host's access to instruction memory, and the launch -/

theorem hostWriteInstr_of_lt {a : Nat} (h : a < imemWords) (w : Word) (s : State) :
    hostWriteInstr a w s = s.withImem (writeCell s.imem a w) := if_pos h

theorem hostWriteInstr_of_le {a : Nat} (h : imemWords ≤ a) (w : Word) (s : State) :
    hostWriteInstr a w s = s.raiseHost (.imemAddrOob a) := if_neg (Nat.not_lt.mpr h)

/-- Settles O55, by the bounds check. -/
theorem hostInstructionAccess : Obligations.HostInstructionAccess := by
  intro a w s hwf
  refine ⟨fun h => ⟨if_pos h, fun b => ?_, ?_⟩, fun h => ⟨if_neg (Nat.not_lt.mpr h), hostWriteInstr_of_le h w s⟩⟩
  · rw [hostWriteInstr_of_lt h]
    exact (readCell_writeCell imemWords s.imem hwf a w b).trans (if_congr eq_comm rfl rfl)
  · rw [hostWriteInstr_of_lt h]
    rfl

/-- A word written by the host reads back in range; a write out of range leaves every cell in range. -/
theorem readCell_hostWriteInstr {s : State} (hwf : Memory.wf imemWords s.imem = true) (a : Nat) (w : Word) {b : Nat}
    (hb : b < imemWords) :
    readCell (hostWriteInstr a w s).imem b = if a = b then w else readCell s.imem b := by
  by_cases ha : a < imemWords
  · rw [hostWriteInstr_of_lt ha]
    exact readCell_writeCell imemWords s.imem hwf a w b
  · rw [hostWriteInstr_of_le (Nat.le_of_not_lt ha), if_neg (by omega)]
    rfl

/-- The words of a program loaded at `a`: the program from there on, the HALT word behind it, and below `a` and
behind the HALT word what was there. -/
theorem readCell_loadFrom (program : List Word) (a : Nat) {s : State} (hwf : Memory.wf imemWords s.imem = true)
    {b : Nat} (hb : b < imemWords) :
    readCell (loadFrom a program s).imem b =
      if b < a then readCell s.imem b
      else if b < a + program.length then program.getD (b - a) 0
      else if b = a + program.length then haltWord else readCell s.imem b := by
  induction program generalizing a s with
  | nil =>
    rw [loadFrom, readCell_hostWriteInstr hwf a haltWord hb]
    rcases Nat.lt_trichotomy b a with hba | rfl | hab
    · rw [if_neg (by omega), if_pos hba]
    · simp
    · simp [Nat.ne_of_lt hab, Nat.ne_of_gt hab, Nat.lt_asymm hab]
  | cons w rest ih =>
    rw [loadFrom, ih (a + 1) (hostWriteInstr_wf a w s hwf), readCell_hostWriteInstr hwf a w hb]
    rcases Nat.lt_trichotomy b a with hba | rfl | hab
    · rw [if_pos (by omega), if_neg (by omega), if_pos hba]
    · simp
    · have hidx : b - a = (b - (a + 1)) + 1 := by omega
      have hend : a + 1 + rest.length = a + (w :: rest).length := by rw [List.length_cons]; omega
      rw [if_neg (Nat.not_lt.mpr hab), if_neg (Nat.lt_asymm hab), if_neg (Nat.ne_of_lt hab), hidx, hend,
        List.getD_cons_succ]

/-- Loading a program changes IMEM, and DIAG where a word is dropped. -/
theorem loadFrom_eq (program : List Word) (a : Nat) (s : State) :
    loadFrom a program s =
      { s with imem := (loadFrom a program s).imem, diag := (loadFrom a program s).diag } := by
  have hwrite : ∀ (b : Nat) (w : Word) (u : State),
      hostWriteInstr b w u = { u with imem := (hostWriteInstr b w u).imem, diag := (hostWriteInstr b w u).diag } := by
    intro b w u
    unfold hostWriteInstr
    split <;> rfl
  induction program generalizing a s with
  | nil => exact hwrite a haltWord s
  | cons w rest ih =>
    rw [loadFrom, ih, hwrite]

/-- A launch is a reset with the loaded program and the launch values. -/
theorem launch_eq (c : Config) (program : List Word) (regs : Vector Byte 64) (data : List Host.Cell)
    (stalls : List Bool) :
    launch c program regs data stalls =
      State.resetWith c regs (loadFrom 0 program (State.resetWith c regs [] data stalls)).imem data stalls := by
  rw [launch, resetCore, loadFrom_eq]
  rfl

/-- Settles O52: IMEM by the words of a loaded program, the rest by the reset. -/
theorem launchLoadsTheProgram : Obligations.LaunchLoadsTheProgram := by
  intro c program regs data stalls s
  have hs : s = State.resetWith c regs _ data stalls := launch_eq c program regs data stalls
  refine ⟨fun a ha => ?_, ?_⟩
  · rw [hs]
    refine (readCell_loadFrom program 0 rfl ha).trans ?_
    simp only [Nat.zero_add, Nat.sub_zero, Nat.not_lt_zero, if_false]
    rfl
  · rw [hs]
    exact ⟨rfl, rfl, rfl, rfl, rfl, rfl, rfl, rfl, rfl, rfl, rfl, rfl, rfl⟩

/-! ### The flag interface -/

/-- One bit of SREG, as the flag interface sets and clears it. -/
theorem getLsbD_flagMask (id j : Nat) (hid : id < 8) : (BitVec.ofNat 8 (2 ^ id)).getLsbD j = decide (j = id) := by
  rw [BitVec.getLsbD_ofNat, Nat.testBit_two_pow]
  by_cases h : j = id
  · simp [h, hid]
  · simp [h, Ne.symm h]

/-- Settles O54: a valid id is one bit of SREG, an invalid one a diagnostic. -/
theorem flagInterface : Obligations.FlagInterface := by
  intro id s
  refine ⟨fun h => ?_, fun h => ?_, rfl, fun j hj => ?_⟩
  · have hv : flagIdValid id = true := decide_eq_true h
    have hset : setFlag id s = s.withSreg (s.sreg ||| BitVec.ofNat 8 (2 ^ id)) := if_pos hv
    have hclear : clearFlag id s = s.withSreg (s.sreg &&& ~~~(BitVec.ofNat 8 (2 ^ id))) := if_pos hv
    refine ⟨if_pos hv, by rw [hset]; rfl, by rw [hclear]; rfl, fun j hj => ?_⟩
    rw [hset, hclear, State.withSreg_sreg, State.withSreg_sreg, BitVec.getLsbD_or, BitVec.getLsbD_and,
      BitVec.getLsbD_not, getLsbD_flagMask id j (by omega), Bool.or_comm, Bool.and_comm, decide_eq_true hj,
      Bool.true_and]
    exact ⟨rfl, rfl⟩
  · have hv : ¬ flagIdValid id = true := fun hc => Nat.not_lt.mpr h (of_decide_eq_true hc)
    exact ⟨if_neg hv, if_neg hv, if_neg hv⟩
  · have hmask : ∀ k < 8, (0xE0 : Byte).getLsbD k = decide (5 ≤ k) := by decide
    rw [clearAllFlags, State.withSreg_sreg, BitVec.getLsbD_and, hmask j hj, Bool.and_comm]

/-! ### The snapshot -/

/-- Settles O56: each table of a snapshot lists, in order, what is read at each index of its range. -/
theorem snapshotShowsTheState : Obligations.SnapshotShowsTheState := by
  intro s
  refine ⟨fun i => ?_, ?_, ?_, ?_, fun a ha => ?_, fun a ha => ?_, rfl, rfl, rfl, rfl, rfl, rfl⟩
  · have hi : i.toNat < 64 := i.isLt
    simp [snapshot, numRegs, hi]
  · simp [snapshot, numRegs]
  · simp [snapshot, imemWords]
  · simp [snapshot, dmemBytes]
  · simp [snapshot, imemWords, ha]
  · simp [snapshot, dmemBytes, ha]

/-! ### The controller -/

/-- No step stops the machine: the step of HALTED is the identity, any other has its closed form. -/
theorem step_answers (s : State) : ∃ t, step s = .next t := by
  by_cases h : s.engine = .halted
  · exact ⟨s, step_halted h⟩
  · exact ⟨_, step_eq h⟩

/-- Settles O38: `exec` and `step` each have a closed form that answers a next state. -/
theorem stepAlwaysAnswersNext : Obligations.StepAlwaysAnswersNext := by
  refine ⟨fun i s => ?_, step_answers⟩
  by_cases hi : i = .halt
  · exact ⟨_, by rw [hi]; rfl⟩
  · exact ⟨_, exec_eq s hi⟩

theorem runCycles_halted {s : State} (h : s.engine = .halted) (k : Nat) :
    runCycles k s = { outcome := .halted, final := s } := by
  cases k with
  | zero => exact congrArg (RunResult.mk · s) (if_pos h)
  | succ k => exact if_pos h

theorem runCycles_succ {s t : State} (h : s.engine ≠ .halted) (ht : step s = .next t) (k : Nat) :
    runCycles (k + 1) s = runCycles k t := by
  rw [runCycles, if_neg h, ht]

/-- A step of an engine that is not HALTED is counted. -/
theorem step_cycle {s t : State} (h : s.engine ≠ .halted) (ht : step s = .next t) : t.cycle = s.cycle + 1 := by
  obtain rfl := eq_stepResult h ht
  unfold stepResult
  split <;> rfl

/-- The loop shows the outcome of its last state and counts each cycle; it ends before the budget only in HALTED. -/
theorem runCycles_spec (k : Nat) (s : State) :
    (runCycles k s).outcome = runEnd (runCycles k s).final ∧ (runCycles k s).final.cycle ≤ s.cycle + k ∧
      ((runCycles k s).final.engine ≠ .halted → (runCycles k s).final.cycle = s.cycle + k) := by
  induction k generalizing s with
  | zero => exact ⟨rfl, le_rfl, fun _ => rfl⟩
  | succ k ih =>
    by_cases h : s.engine = .halted
    · rw [runCycles_halted h]
      exact ⟨(if_pos h).symm, Nat.le_add_right _ _, fun hc => absurd h hc⟩
    · obtain ⟨t, ht⟩ := step_answers s
      obtain ⟨hend, hle, hbudget⟩ := ih t
      rw [runCycles_succ h ht]
      rw [step_cycle h ht] at hle hbudget
      exact ⟨hend, by omega, fun hc => by rw [hbudget hc]; omega⟩

theorem runEnd_eq_halted_iff (s : State) : runEnd s = .halted ↔ s.engine = .halted := by
  unfold runEnd
  split <;> simp_all

/-- Settles O57: the loop's outcome is that of its last state, and only HALTED ends it early. -/
theorem controllerOutcomes : Obligations.ControllerOutcomes := by
  refine ⟨fun m s => ?_, rfl, fun k hk => if_neg (Int.not_lt.mpr hk), fun k hk => ?_⟩
  · obtain ⟨hend, hle, hbudget⟩ := runCycles_spec (cycleBudget m) (s.withCycle 0)
    rw [State.withCycle_cycle, Nat.zero_add] at hle hbudget
    refine ⟨fun h => ⟨(runEnd_eq_halted_iff _).1 (hend.symm.trans h), hle⟩, fun h => ?_⟩
    have hne : (run m s).final.engine ≠ .halted := fun hc =>
      RunEnd.noConfusion (h.symm.trans (hend.trans ((runEnd_eq_halted_iff _).2 hc)))
    exact ⟨hne, hbudget hne⟩
  · have hb : cycleBudget (some k) = k.toNat := if_pos hk
    rw [hb]
    exact Int.toNat_of_nonneg (Int.le_of_lt hk)

end Sys2Proof.Machine

/-! One cycle, stage by stage (70_reset_and_hazards.md R290 to R302): what EX, IF and the hazard controller do, and the
statements about a step read off from that. -/

namespace Sys2Proof.Machine

/-! ### The fields a step sets -/

section
variable (s : State) (f : ExEffect) (g : IfEffect)

@[simp] theorem stepResult_imem : (stepResult s f g).imem = s.imem := by
  unfold stepResult; split <;> rfl

@[simp] theorem stepResult_cycle : (stepResult s f g).cycle = s.cycle + 1 := by
  unfold stepResult; split <;> rfl

@[simp] theorem stepResult_stallIn : (stepResult s f g).stallIn = s.stallIn.tail := by
  unfold stepResult; split <;> rfl

@[simp] theorem stepResult_flushReq : (stepResult s f g).flushReq = none := by
  unfold stepResult; split <;> rfl

@[simp] theorem stepResult_pc : (stepResult s f g).pc = f.redirect.getD g.pc := by
  unfold stepResult; split <;> simp_all

@[simp] theorem stepResult_ifid :
    (stepResult s f g).ifid = if f.redirect.isSome then bubbleIfId (s.cycle + 1) else g.ifid := by
  unfold stepResult; split <;> simp_all

@[simp] theorem stepResult_idex :
    (stepResult s f g).idex = if f.redirect.isSome then bubbleIdEx (s.cycle + 1) else idResult s := by
  unfold stepResult; split <;> simp_all

end

/-! ### IF: the fetch is withheld, reads the sentinel or fetches a word -/

theorem fetches_eq_true_iff (s : State) : fetches s = true ↔ s.engine = .running ∧ stalled s = false := by
  simp [fetches]

theorem fetches_eq_false_iff (s : State) : fetches s = false ↔ s.engine ≠ .running ∨ stalled s = true := by
  simp [fetches, imp_iff_not_or]

theorem wordAt_of_lt {s : State} {a : Word} (h : a.toNat < 1024) : wordAt s a = readCell s.imem a.toNat := if_pos h

/-- Outside IMEM every address reads as the sentinel. -/
theorem lt_of_wordAt_ne {s : State} {a : Word} (h : wordAt s a ≠ haltWord) : a.toNat < 1024 := by
  by_contra hc
  exact h (if_neg hc)

theorem fetchEffect_withheld {s : State} (h : fetches s = false) (n : Nat) :
    fetchEffect s n = ⟨bubbleIfId n, s.pc, s.engine, []⟩ :=
  if_pos ((fetches_eq_false_iff s).1 h)

theorem fetchEffect_sentinel {s : State} (h : fetches s = true) (hw : wordAt s s.pc = haltWord) (n : Nat) :
    fetchEffect s n =
      ⟨bubbleIfId n, s.pc, .draining, if s.pc.toNat < 1024 then [] else [.imemFetchOob s.pc]⟩ := by
  have hgo : ¬(s.engine ≠ .running ∨ stalled s = true) := by
    rw [← fetches_eq_false_iff, h]
    decide
  rw [fetchEffect, if_neg hgo]
  by_cases hpc : s.pc.toNat < 1024
  · rw [wordAt_of_lt hpc] at hw
    simp [hpc, hw]
  · simp [hpc]

theorem fetchEffect_word {s : State} (h : fetches s = true) (hw : wordAt s s.pc ≠ haltWord) (n : Nat) :
    fetchEffect s n = ⟨⟨true, wordAt s s.pc, s.pc⟩, s.pc + 1, .running, []⟩ := by
  obtain ⟨hrun, hstall⟩ := (fetches_eq_true_iff s).1 h
  have hpc := lt_of_wordAt_ne hw
  rw [wordAt_of_lt hpc] at hw ⊢
  simp [fetchEffect, hrun, hstall, hpc, hw]

/-- IF/ID is valid after IF exactly when IF fetched a word. -/
theorem fetchEffect_ifid_valid_iff (s : State) (n : Nat) :
    (fetchEffect s n).ifid.valid = true ↔ fetches s = true ∧ wordAt s s.pc ≠ haltWord := by
  by_cases h : fetches s = true
  · by_cases hw : wordAt s s.pc = haltWord
    · simp [fetchEffect_sentinel h hw, hw]
    · simp [fetchEffect_word h hw, h, hw]
  · simp [fetchEffect_withheld (Bool.eq_false_of_not_eq_true h), h]

/-- What IF raises: the one diagnostic of a fetch outside IMEM. -/
theorem fetchEffect_raised (s : State) (n : Nat) :
    (fetchEffect s n).raised = if fetches s = true ∧ 1024 ≤ s.pc.toNat then [.imemFetchOob s.pc] else [] := by
  by_cases h : fetches s = true
  · by_cases hw : wordAt s s.pc = haltWord
    · by_cases hpc : s.pc.toNat < 1024
      · simp [fetchEffect_sentinel h hw, hpc, Nat.not_le.mpr hpc]
      · simp [fetchEffect_sentinel h hw, hpc, h, Nat.le_of_not_lt hpc]
    · simp [fetchEffect_word h hw, Nat.not_le.mpr (lt_of_wordAt_ne hw)]
  · simp [fetchEffect_withheld (Bool.eq_false_of_not_eq_true h), h]

/-! ### EX: the instruction of a valid ID/EX -/

/-- EX of a valid ID/EX, in the cycle from `s`. -/
theorem stageEffect_exState_of_valid {s : State} (h : s.idex.valid = true) :
    stageEffect (writeBack (beginCycle s)) =
      exEffect s.idex.instr (writeBack s).reg s.sreg s.dmem s.idex.pc := if_pos h

theorem redirectEffect_raised (y : Int) (p : Word) :
    (redirectEffect y p).1.length ≤ 1 ∧ ∀ e ∈ (redirectEffect y p).1, ofExecution e = true := by
  unfold redirectEffect
  split <;> simp [ofExecution]

theorem ofExecution_iff (e : Diag) :
    ofExecution e = true ↔ (∃ p w, e = .unknownOpcode p w) ∨ ∃ p y, e = .branchTargetOob p y := by
  cases e <;> simp [ofExecution]

theorem aluClass_iff (t : Tag) : aluClass t = true ↔ t ∈ [Tag.add, .sub, .mul, .xor, .andi, .sll, .sra] := by
  cases t <;> decide

section
variable (d : IdEx) (x : RegIdx → Byte) (sreg : Byte) (dmem : List Host.Cell) (pc : Word)

theorem exEffect_instr_exwb_tag : (exEffect d.instr x sreg dmem pc).exwb.tag = d.tag := by
  unfold IdEx.instr
  cases d.tag with
  | beqz => rw [exEffect_beqz]; rfl
  | _ => rfl

theorem exEffect_instr_exwb_rd : (exEffect d.instr x sreg dmem pc).exwb.rd = d.f1 := by
  unfold IdEx.instr
  cases d.tag with
  | beqz => rw [exEffect_beqz]; rfl
  | _ => rfl

/-- SREG as EX leaves it: set from a result and its carry and overflow by an ALU-class instruction, else unchanged. -/
theorem exEffect_instr_sreg :
    (aluClass d.tag = true ∧ ∃ r c v, (exEffect d.instr x sreg dmem pc).sreg = setFlags sreg r c v) ∨
      (exEffect d.instr x sreg dmem pc).sreg = sreg := by
  unfold IdEx.instr
  cases d.tag with
  | add | sub | mul | xor | andi | sll | sra => exact .inl ⟨rfl, _, _, _, rfl⟩
  | beqz => rw [exEffect_beqz]; exact .inr rfl
  | load | store | jr | movi | unknown => exact .inr rfl

/-- EX raises at most one diagnostic, and it belongs to the executed instruction. -/
theorem exEffect_instr_raised :
    (exEffect d.instr x sreg dmem pc).raised.length ≤ 1 ∧
      ∀ e ∈ (exEffect d.instr x sreg dmem pc).raised, ofExecution e = true := by
  unfold IdEx.instr
  cases d.tag with
  | beqz =>
    rw [exEffect_beqz, beqzEffect]
    split
    · exact redirectEffect_raised _ _
    · simp
  | jr =>
    simp only [exEffect]
    exact redirectEffect_raised _ _
  | unknown => simp [exEffect, ofExecution]
  | _ => simp [exEffect, aluEffect]

end

theorem IdEx.instr_of_store {d : IdEx} (h : d.tag = .store) : d.instr = .store d.f1 d.f2 := by
  simp [IdEx.instr, h]

theorem IdEx.instr_of_load {d : IdEx} (h : d.tag = .load) : d.instr = .load d.f1 d.f2 := by
  simp [IdEx.instr, h]

theorem IdEx.tag_of_instr_store {d : IdEx} {r : RegIdx} {a : BitVec 6} (h : d.instr = .store r a) :
    d.tag = .store := by
  unfold IdEx.instr at h
  cases ht : d.tag <;> simp_all

/-! ### One step, register by register -/

section
variable {s t : State}

theorem eq_of_step_halted (h : s.engine = .halted) (ht : step s = .next t) : t = s :=
  (Host.Outcome.next.inj ((step_halted h).symm.trans ht)).symm

theorem eq_draining (h : s.engine ≠ .halted) (hr : s.engine ≠ .running) : s.engine = .draining := by
  cases he : s.engine <;> simp_all

theorem step_imem (ht : step s = .next t) : t.imem = s.imem := by
  by_cases h : s.engine = .halted
  · obtain rfl := eq_of_step_halted h ht
    rfl
  · rw [eq_stepResult h ht, stepResult_imem]

theorem step_cfg (ht : step s = .next t) : t.cfg = s.cfg := by
  by_cases h : s.engine = .halted
  · obtain rfl := eq_of_step_halted h ht
    rfl
  · rw [eq_stepResult h ht, stepResult_cfg]

variable (h : s.engine ≠ .halted) (ht : step s = .next t)
include h ht

theorem step_rf : t.rf = (writeBack s).rf := by rw [eq_stepResult h ht, stepResult_rf]

theorem step_sreg : t.sreg = (stageEffect (writeBack (beginCycle s))).sreg := by
  rw [eq_stepResult h ht, stepResult_sreg]

theorem step_dmem : t.dmem = (stageEffect (writeBack (beginCycle s))).dmem := by
  rw [eq_stepResult h ht, stepResult_dmem]

theorem step_exwb : t.exwb = (stageEffect (writeBack (beginCycle s))).exwb := by
  rw [eq_stepResult h ht, stepResult_exwb]

theorem step_diag : t.diag = s.diag ++ stamped (s.cycle + 1) (stageEffect (writeBack (beginCycle s))).raised ++
    stamped (s.cycle + 1) (fetchEffect s (s.cycle + 1)).raised := by
  rw [eq_stepResult h ht, stepResult_diag]

theorem step_stallIn : t.stallIn = s.stallIn.tail := by rw [eq_stepResult h ht, stepResult_stallIn]

theorem step_flushReq : t.flushReq = none := by rw [eq_stepResult h ht, stepResult_flushReq]

theorem step_exwb_valid : t.exwb.valid = s.idex.valid := by
  rw [step_exwb h ht, stageEffect_exwb_valid]
  rfl

/-! With no flush, IF/ID, ID/EX and the pc are what ID and IF made of them. -/

theorem step_idex (hf : flushTaken s = none) : t.idex = idResult s := by
  rw [flushTaken_eq] at hf
  simp [eq_stepResult h ht, hf]

/-- ID/EX is valid after the cycle exactly if IF/ID was. -/
theorem step_idex_valid (hf : flushTaken s = none) : t.idex.valid = s.ifid.valid := by
  rw [step_idex h ht hf, idResult]
  cases hv : s.ifid.valid <;> rfl

theorem step_ifid (hf : flushTaken s = none) : t.ifid = (fetchEffect s (s.cycle + 1)).ifid := by
  rw [flushTaken_eq] at hf
  simp [eq_stepResult h ht, hf]

/-- IF/ID is valid after the cycle exactly if IF fetched a word. -/
theorem step_ifid_valid_iff (hf : flushTaken s = none) :
    t.ifid.valid = true ↔ fetches s = true ∧ wordAt s s.pc ≠ haltWord := by
  rw [step_ifid h ht hf, fetchEffect_ifid_valid_iff]

theorem step_pc (hf : flushTaken s = none) : t.pc = (fetchEffect s (s.cycle + 1)).pc := by
  rw [flushTaken_eq] at hf
  simp [eq_stepResult h ht, hf]

theorem step_engine (hf : flushTaken s = none) :
    t.engine = if (fetchEffect s (s.cycle + 1)).engine = .draining ∧ pipelineEmpty t = true then .halted
      else (fetchEffect s (s.cycle + 1)).engine := by
  rw [flushTaken_eq] at hf
  rw [eq_stepResult h ht, stepResult_engine_of_no_redirect hf]

/-! With a flush, IF/ID and ID/EX are bubbles, the pc is the target and the engine is RUNNING. -/

variable {target : Word} (hf : flushTaken s = some target)
include hf

theorem step_idex_of_flush : t.idex = bubbleIdEx (s.cycle + 1) := by
  rw [flushTaken_eq] at hf
  simp [eq_stepResult h ht, hf]

theorem step_ifid_of_flush : t.ifid = bubbleIfId (s.cycle + 1) := by
  rw [flushTaken_eq] at hf
  simp [eq_stepResult h ht, hf]

theorem step_pc_of_flush : t.pc = target := by
  rw [flushTaken_eq] at hf
  simp [eq_stepResult h ht, hf]

theorem step_engine_of_flush : t.engine = .running := by
  rw [flushTaken_eq] at hf
  rw [eq_stepResult h ht, stepResult_engine_of_redirect hf]

end

/-- A flush goes inside IMEM and comes from a valid BEQZ or JR in ID/EX. -/
theorem flushTaken_some {s : State} {target : Word} (hf : flushTaken s = some target) :
    target.toNat < 1024 ∧ s.idex.valid = true ∧ (s.idex.tag = .beqz ∨ s.idex.tag = .jr) := by
  rw [flushTaken_eq] at hf
  exact stageEffect_redirect (s := writeBack (beginCycle s)) hf

/-- A bubble in ID/EX takes no flush. -/
theorem flushTaken_of_bubble {s : State} (h : s.idex.valid = false) : flushTaken s = none := by
  rw [flushTaken_eq, stageEffect_exState_of_bubble h]

/-- An instruction that is in EX is in EX/WB after the cycle, so the engine has not HALTED. -/
theorem step_not_halted {s t : State} (h : s.engine ≠ .halted) (ht : step s = .next t) (hv : s.idex.valid = true) :
    t.engine ≠ .halted := by
  intro hh
  obtain ⟨hempty, -⟩ := (haltedIsTerminalAndEmpty.2 s t h ht).1 hh
  simp [pipelineEmpty, step_exwb_valid h ht, hv] at hempty

/-! ### SREG, data memory and IMEM over a step -/

/-- Settles O22: only EX writes SREG, and only by SetFlags in an ALU-class instruction. -/
theorem sregWrittenByAluClassOnly : Obligations.SregWrittenByAluClassOnly := by
  intro s t ht
  by_cases h : s.engine = .halted
  · obtain rfl := eq_of_step_halted h ht
    exact ⟨rfl, fun hne => absurd rfl hne⟩
  rw [step_sreg h ht, ← aluClass_iff]
  cases hv : s.idex.valid with
  | false =>
    rw [stageEffect_exState_of_bubble hv]
    exact ⟨rfl, fun hne => absurd rfl hne⟩
  | true =>
    rw [stageEffect_exState_of_valid hv]
    rcases exEffect_instr_sreg s.idex (writeBack s).reg s.sreg s.dmem s.idex.pc with ⟨halu, r, c, v, hset⟩ | hsame
    · rw [hset]
      exact ⟨sregReserved_setFlags _ _ _ _, fun _ => ⟨h, rfl, halu⟩⟩
    · rw [hsame]
      exact ⟨rfl, fun hne => absurd rfl hne⟩

/-- Settles O24: only EX writes data memory, only STORE in EX does, and STORE writes one cell. -/
theorem dataMemoryWrittenByStoreOnly : Obligations.DataMemoryWrittenByStoreOnly := by
  intro s t hwf ht h a
  rw [step_dmem h ht]
  cases hv : s.idex.valid with
  | false => simp [stageEffect_exState_of_bubble hv]
  | true =>
    rw [stageEffect_exState_of_valid hv]
    by_cases hs : s.idex.tag = .store
    · rw [IdEx.instr_of_store hs]
      refine (readCell_writeCell dmemBytes s.dmem hwf _ _ a).trans (if_congr ?_ rfl rfl)
      simp [hs, eq_comm]
    · rw [exEffect_dmem _ _ _ _ fun r b hi => hs (IdEx.tag_of_instr_store hi), if_neg fun hc => hs hc.2.1]

/-- Settles O25: no part of the closed form of a step writes IMEM or the configuration. -/
theorem instructionMemoryIsConstant : Obligations.InstructionMemoryIsConstant := fun _ _ ht =>
  ⟨step_imem ht, step_cfg ht⟩

/-! ### Results and stored bytes reach the next instruction -/

/-- Settles O26: the result is in EX/WB after the step, and the next cycle's WB comes before its EX. -/
theorem resultVisibleToNextInstruction : Obligations.ResultVisibleToNextInstruction := by
  intro s h hv htag
  obtain ⟨t, ht⟩ := step_answers s
  have hexwb := step_exwb h ht
  rw [stageEffect_exState_of_valid hv] at hexwb
  refine ⟨_, t, exec_eq (exInput s) (IdEx.instr_ne_halt s.idex), ht, step_not_halted h ht hv, hexwb, fun i => ?_⟩
  have hwrites : writesReg t.exwb.tag = true := by
    rw [hexwb, exEffect_instr_exwb_tag, writesReg_iff]
    exact htag
  have hrd : t.exwb.rd = s.idex.f1 := by rw [hexwb, exEffect_instr_exwb_rd]
  have hcfg : t.cfg = (exInput s).cfg := step_cfg (s := s) ht
  have hrf : t.rf = (exInput s).rf := step_rf (s := s) h ht
  have hread : (exInput t).reg i = (writeBack t).reg i := rfl
  rw [hread, reg_writeBack, reg_congr hcfg hrf, step_exwb_valid h ht, hwrites, hrd, step_cfg ht]
  refine if_congr ?_ (congrArg ExWb.result hexwb) rfl
  rw [hv, and_iff_right rfl, and_iff_right rfl]
  exact and_congr_left' eq_comm

/-- Settles O27: STORE writes its cell in the first EX, and LOAD, decoded in that cycle, reads it in the second. -/
theorem loadSeesTheStoreBeforeIt : Obligations.LoadSeesTheStoreBeforeIt := by
  intro s rs addr h hwf hv hstore hiv hload haddr
  obtain ⟨t, ht⟩ := step_answers s
  obtain ⟨u, hu⟩ := step_answers t
  have hf : flushTaken s = none := by
    rw [flushTaken_eq, stageEffect_exState_of_valid hv, hstore]
    rfl
  have hidex : t.idex = decodeIdEx s.cfg s.ifid.word s.ifid.pc := by rw [step_idex h ht hf, idResult, if_pos hiv]
  have htv : t.idex.valid = true := by rw [hidex]; rfl
  have hinstr : t.idex.instr = .load t.idex.f1 addr := by
    rw [IdEx.instr_of_load (by rw [hidex]; exact hload), ← haddr, hidex]
    rfl
  have hdmem : t.dmem = writeCell s.dmem (dataAddr addr).toNat ((exInput s).reg rs) := by
    rw [step_dmem h ht, stageEffect_exState_of_valid hv, hstore]
    rfl
  have hexwb := step_exwb (step_not_halted h ht hv) hu
  rw [stageEffect_exState_of_valid htv, hinstr] at hexwb
  refine ⟨t, u, ht, hu, by rw [hexwb]; rfl, by rw [hexwb]; rfl, ?_⟩
  calc u.exwb.result = readCell t.dmem (dataAddr addr).toNat := by rw [hexwb]; rfl
    _ = (exInput s).reg rs := by rw [hdmem, readCell_writeCell dmemBytes s.dmem hwf, if_pos rfl]

/-- Settles O28: EX of a valid ID/EX is `exec` of its instruction, which is that of the decoded word. -/
theorem stepRunsTheDecodedInstruction : Obligations.StepRunsTheDecodedInstruction := by
  intro s w pc h hw hidex
  have hex : executeStage (writeBack (beginCycle s)) = exec (decode s.cfg w) (writeBack (beginCycle s)) := by
    rw [executeStage, exState_idex, hidex, decodeIdEx_valid, if_pos rfl, instr_decodeIdEx s.cfg pc hw]
  rw [step, if_neg h, cycleStages, hex]

/-! ### What the stages hand on -/

/-- Settles O29: without a flush each stage's register is what the stage made, with a flush the two younger are
bubbles. -/
theorem stagesHandOver : Obligations.StagesHandOver := by
  intro s t ht h
  refine ⟨fun hf hv => ?_, fun hv => ?_, fun hf hgo hw => ?_, fun hv => ?_, by rw [step_exwb_valid h ht]⟩
  · rw [step_idex h ht hf, idResult, if_pos hv]
  · cases hf : flushTaken s with
    | some target => simp [step_idex_of_flush h ht hf] at hv
    | none =>
      exact ⟨rfl, (step_idex_valid h ht hf).symm.trans hv⟩
  · rw [step_ifid h ht hf, fetchEffect_word hgo hw]
  · cases hf : flushTaken s with
    | some target => simp [step_ifid_of_flush h ht hf] at hv
    | none => exact ⟨rfl, (step_ifid_valid_iff h ht hf).1 hv⟩

/-- Settles O31: a flush sets the pc, else a fetched word moves it. -/
theorem pcUpdate : Obligations.PcUpdate := by
  intro s t ht h
  cases hf : flushTaken s with
  | some target => exact step_pc_of_flush h ht hf
  | none =>
    rw [step_pc h ht hf, fetchEffect_pc]
    refine if_congr ((fetchEffect_ifid_valid_iff s _).trans (and_congr_right fun _ => ?_)) rfl rfl
    constructor
    · intro hw
      have hpc := lt_of_wordAt_ne hw
      exact ⟨hpc, by rwa [wordAt_of_lt hpc] at hw⟩
    · rintro ⟨hpc, hw⟩
      rwa [wordAt_of_lt hpc]

/-- WB of an instruction that produces no result writes no register. -/
theorem writeBack_rf_of_not_writes {s : State} (h : writesReg s.exwb.tag = false) : (writeBack s).rf = s.rf := by
  simp [writeBack, h]

/-! ### A flush and the two cycles after it -/

/-- Settles O32: the flush leaves bubbles in IF/ID and ID/EX, so the next EX and the next ID are idle, and IF reads at
the target. -/
theorem flushDiscardsTheYoungerTwo : Obligations.FlushDiscardsTheYoungerTwo := by
  intro s t target ht h hf
  obtain ⟨hlt, hv, htag⟩ := flushTaken_some hf
  have hid : t.idex.valid = false := by rw [step_idex_of_flush h ht hf]; rfl
  have hif : t.ifid.valid = false := by rw [step_ifid_of_flush h ht hf]; rfl
  have hpc : t.pc = target := step_pc_of_flush h ht hf
  have hrun : t.engine = .running := step_engine_of_flush h ht hf
  have hne : t.engine ≠ .halted := by rw [hrun]; decide
  have hxtag : t.exwb.tag = s.idex.tag := by
    rw [step_exwb h ht, stageEffect_exState_of_valid hv, exEffect_instr_exwb_tag]
  obtain ⟨u, hu⟩ := step_answers t
  have hidle := stageEffect_exState_of_bubble hid
  have hnone := flushTaken_of_bubble hid
  refine ⟨hif, hid, hpc, hlt, (step_exwb_valid h ht).trans hv, hxtag, hxtag ▸ htag, u, hu,
    (step_exwb_valid hne hu).trans hid, ?_, ?_, ?_, ?_, ?_, fun hstall hw => ?_⟩
  · exact (step_idex_valid hne hu hnone).trans hif
  · rw [step_sreg hne hu, hidle]
  · rw [step_dmem hne hu, hidle]
  · rw [step_rf hne hu, writeBack_rf_of_not_writes]
    rcases htag with hb | hj
    · rw [hxtag, hb]; rfl
    · rw [hxtag, hj]; rfl
  · rw [step_diag hne hu, hidle, fetchEffect_raised, hpc, if_neg fun hc => absurd hc.2 (Nat.not_le.mpr hlt)]
    simp [stamped_nil]
  · have hword : wordAt t t.pc = readCell t.imem target.toNat := by rw [hpc, wordAt_of_lt hlt]
    rw [step_ifid hne hu hnone, fetchEffect_word ((fetches_eq_true_iff t).2 ⟨hrun, hstall⟩) (hword ▸ hw), hword, hpc]

/-- Settles O37: the flush and the idle cycle after it leave ID/EX invalid, and the word fetched at the target in that
cycle is decoded in the next. -/
theorem takenBranchCostsTwoBubbles : Obligations.TakenBranchCostsTwoBubbles := by
  intro s t u v target h hf ht hu hv
  obtain ⟨-, htid, -, -, -, -, -, w, hw, -, huid, -, -, -, -, hfetch⟩ := flushDiscardsTheYoungerTwo s t target ht h hf
  obtain rfl := Host.Outcome.next.inj (hu.symm.trans hw)
  refine ⟨htid, huid, fun hstall hword => ?_⟩
  rw [← step_imem ht] at hword
  have huif := hfetch hstall hword
  have htne : t.engine ≠ .halted := by rw [step_engine_of_flush h ht hf]; decide
  have hune : u.engine ≠ .halted := by
    intro hh
    obtain ⟨hempty, -⟩ := (haltedIsTerminalAndEmpty.2 t u htne hu).1 hh
    simp [pipelineEmpty, huif] at hempty
  rw [step_idex hune hv (flushTaken_of_bubble huid), idResult, huif, if_pos rfl, step_cfg hu, step_cfg ht, step_imem ht]

/-! ### The engine state -/

/-- Settles O33: the engine state is what IF left, set to RUNNING by a flush and to HALTED by an empty pipeline in
DRAINING. -/
theorem engineTransitions : Obligations.EngineTransitions := by
  intro s t ht
  have hflush : s.engine ≠ .halted → flushTaken s ≠ none → t.engine = .running := by
    intro h hne
    obtain ⟨target, hf⟩ := Option.ne_none_iff_exists'.1 hne
    exact step_engine_of_flush h ht hf
  refine ⟨fun hh => ?_, fun hr => hflush (by simp [hr]), fun hr hf hstall hw => ?_, fun hr hor => ?_,
    fun hd => hflush (by simp [hd]), fun hd hf => ?_⟩
  · obtain rfl := eq_of_step_halted hh ht
    exact hh
  · rw [step_engine (by simp [hr]) ht hf, fetchEffect_sentinel ((fetches_eq_true_iff s).2 ⟨hr, hstall⟩) hw]
    simp
  · have hne : s.engine ≠ .halted := by simp [hr]
    by_cases hf : flushTaken s = none
    · have hif : (fetchEffect s (s.cycle + 1)).engine = .running := by
        by_cases hgo : fetches s = true
        · have hw := hor.resolve_left (by simp [((fetches_eq_true_iff s).1 hgo).2])
          rw [fetchEffect_word hgo hw]
        · rw [fetchEffect_withheld (Bool.eq_false_of_not_eq_true hgo), hr]
      simp [step_engine hne ht hf, hif]
    · exact hflush hne hf
  · have hgo : fetches s = false := (fetches_eq_false_iff s).2 (.inl (by simp [hd]))
    rw [step_engine (by simp [hd]) ht hf, fetchEffect_withheld hgo, hd]
    simp

/-- In DRAINING IF hands nothing on, so without a flush each register is emptied by the one before it, until the
engine halts. -/
theorem step_of_draining {s t : State} (hd : s.engine = .draining) (ht : step s = .next t)
    (hf : flushTaken s = none) :
    t.engine = .halted ∨ (t.engine = .draining ∧ t.ifid.valid = false ∧ t.idex.valid = s.ifid.valid ∧
      t.exwb.valid = s.idex.valid) := by
  have h : s.engine ≠ .halted := by simp [hd]
  have hgo : fetches s = false := (fetches_eq_false_iff s).2 (.inl (by simp [hd]))
  have hif : t.ifid.valid = false := by rw [step_ifid h ht hf, fetchEffect_withheld hgo]; rfl
  obtain ⟨-, -, -, -, -, hdrains⟩ := engineTransitions s t ht
  rw [hdrains hd hf]
  by_cases hempty : pipelineEmpty t = true
  · exact .inl (if_pos hempty)
  · exact .inr ⟨if_neg hempty, hif, step_idex_valid h ht hf, step_exwb_valid h ht⟩

/-- Settles O36: the three registers empty one after the other, and HALTED, once reached, stays. -/
theorem drainingHaltsWithinThreeCycles : Obligations.DrainingHaltsWithinThreeCycles := by
  intro s a b c hs ha hb hc hfs hfa hfb
  have hstay : ∀ x y : State, step x = .next y → x.engine = .halted → y.engine = .halted :=
    fun x y hxy => (engineTransitions x y hxy).1
  rcases step_of_draining hs ha hfs with hah | ⟨had, haif, -, -⟩
  · exact hstay b c hc (hstay a b hb hah)
  rcases step_of_draining had hb hfa with hbh | ⟨hbd, hbif, hbid, -⟩
  · exact hstay b c hc hbh
  rcases step_of_draining hbd hc hfb with hch | ⟨hcd, hcif, hcid, hcx⟩
  · exact hch
  · have hbusy := (haltedIsTerminalAndEmpty.2 b c (by simp [hbd]) hc).2 hcd
    simp [pipelineEmpty, hcif, hcid, hbif, hcx, hbid, haif] at hbusy

/-! ### Stalls and diagnostics -/

/-- No stage but IF reads the stall inputs. -/
theorem stepResult_withStallIn (s : State) (l : List Bool) (f : ExEffect) (g : IfEffect) :
    stepResult (s.withStallIn l) f g = (stepResult s f g).withStallIn l.tail := by
  unfold stepResult
  cases f.redirect <;> rfl

/-- A step under other stall inputs differs in what IF does. -/
theorem step_withStallIn {s t : State} {l : List Bool} (h : s.engine ≠ .halted)
    (ht : step (s.withStallIn l) = .next t) :
    t = (stepResult s (stageEffect (writeBack (beginCycle s)))
      (fetchEffect (s.withStallIn l) (s.cycle + 1))).withStallIn l.tail :=
  (eq_stepResult (s := s.withStallIn l) h ht).trans (stepResult_withStallIn s l _ _)

theorem fetches_withStallIn_cons (s : State) (b : Bool) (l : List Bool) :
    fetches (s.withStallIn (b :: l)) = (decide (s.engine = .running) && !b) := rfl

/-- Settles O35: EX, ID and WB do not read the stall input, and IF under a stall hands on a bubble and raises
nothing. -/
theorem stallWithholdsOneFetch : Obligations.StallWithholdsOneFetch := by
  intro s t u h ht hu
  have hstalled : fetchEffect (s.withStallIn (true :: s.stallIn)) (s.cycle + 1) =
      ⟨bubbleIfId (s.cycle + 1), s.pc, s.engine, []⟩ :=
    fetchEffect_withheld (by simp [fetches_withStallIn_cons]) _
  have hdrain : s.engine = .draining → fetchEffect (s.withStallIn (false :: s.stallIn)) (s.cycle + 1) =
      fetchEffect (s.withStallIn (true :: s.stallIn)) (s.cycle + 1) := fun hd => by
    rw [hstalled]
    exact fetchEffect_withheld (by simp [fetches_withStallIn_cons, hd]) _
  have hraised : (fetchEffect (s.withStallIn (false :: s.stallIn)) (s.cycle + 1)).raised =
      if s.engine = .running ∧ 1024 ≤ s.pc.toNat then [.imemFetchOob s.pc] else [] := by
    rw [fetchEffect_raised]
    simp [fetches_withStallIn_cons]
  obtain rfl := step_withStallIn h ht
  obtain rfl := step_withStallIn h hu
  rw [flushTaken_eq]
  refine ⟨?_, fun hf => ?_, by simp, by simp, by simp, by simp, by simp, by simp, by simp, by simp, by simp, rfl, rfl,
    fun hf => ?_, fun hf hr => ?_, fun hd => ?_, ?_⟩
  · simp only [hstalled, State.withStallIn_ifid, stepResult_ifid]
    split <;> rfl
  · simp [hstalled, hf]
  · obtain ⟨target, hred⟩ := Option.ne_none_iff_exists'.1 hf
    simp [hred, stepResult_engine_of_redirect hred]
  · simp [stepResult_engine_of_no_redirect hf, hstalled, hr]
  · rw [hdrain hd]
    rfl
  · simp only [State.withStallIn_diag, stepResult_diag, hraised, hstalled, stamped_nil, List.append_nil]
    split <;> rfl

/-- Settles O39: the diagnostics of a step are those of its EX, then those of its IF, stamped with its number. -/
theorem diagnosticsOfOneCycle : Obligations.DiagnosticsOfOneCycle := by
  intro s t ht h
  refine ⟨_, _, step_diag h ht, ?_, ?_, ?_, ?_⟩
  · rw [stamped, List.length_map]
    cases hv : s.idex.valid with
    | false => simp [stageEffect_exState_of_bubble hv]
    | true =>
      rw [stageEffect_exState_of_valid hv]
      exact (exEffect_instr_raised _ _ _ _ _).1
  · rw [stamped, List.length_map, fetchEffect_raised]
    split <;> simp
  · intro e he
    obtain ⟨d, hd, rfl⟩ := List.mem_map.1 he
    cases hv : s.idex.valid with
    | false => simp [stageEffect_exState_of_bubble hv] at hd
    | true =>
      rw [stageEffect_exState_of_valid hv] at hd
      exact ⟨rfl, rfl, (ofExecution_iff d).1 ((exEffect_instr_raised _ _ _ _ _).2 d hd)⟩
  · intro e he
    obtain ⟨d, hd, rfl⟩ := List.mem_map.1 he
    rw [fetchEffect_raised] at hd
    split at hd
    next hoob => exact ⟨rfl, List.mem_singleton.1 hd, hoob.2⟩
    next => simp at hd

end Sys2Proof.Machine

/-! The invariant of the machine (`Inv`): reset and launch meet it, and every step keeps it. -/

namespace Sys2Proof.Machine

/-! ### What EX keeps and leaves -/

/-- SetFlags makes S the exclusive or of N and V. -/
theorem sregLegal_setFlags {b : Byte} (h : sregLegal b) (r : Byte) (c v : Bool) : sregLegal (setFlags b r c v) := by
  refine ⟨(sregReserved_setFlags b r c v).trans h.1, ?_⟩
  rw [flagS_setFlags, flagN_setFlags, flagV_setFlags]

theorem dataAddr_toNat_lt (a : BitVec 6) : (dataAddr a).toNat < 64 := by
  rw [dataAddr_toNat]
  exact a.isLt

/-- EX leaves a legal EX/WB entry. -/
theorem exwbLegal_of_exEffect {s : State} {d : IdEx} {x : RegIdx → Byte} {sreg : Byte} {dmem : List Host.Cell}
    {pc : Word} (hs : s.exwb = (exEffect d.instr x sreg dmem pc).exwb) : exwbLegal s := by
  intro _
  have hzero : (0 : DataAddr).toNat < 64 := by decide
  rw [hs]
  unfold IdEx.instr
  cases d.tag with
  | load => exact ⟨rfl, dataAddr_toNat_lt _, nofun, nofun⟩
  | store => exact ⟨rfl, dataAddr_toNat_lt _, nofun, fun _ hne => absurd rfl hne⟩
  | beqz =>
    rw [exEffect_beqz]
    exact ⟨rfl, hzero, fun _ => rfl, fun _ _ => rfl⟩
  | jr | unknown => exact ⟨rfl, hzero, fun _ => rfl, fun _ _ => rfl⟩
  | add | sub | mul | xor | andi | sll | sra | movi => exact ⟨rfl, hzero, fun _ => rfl, nofun⟩

/-- EX keeps the canonical form of data memory. -/
theorem exEffect_instr_dmem_wf (d : IdEx) (x : RegIdx → Byte) (sreg : Byte) {dmem : List Host.Cell} (pc : Word)
    (h : Memory.wf dmemBytes dmem = true) :
    Memory.wf dmemBytes (exEffect d.instr x sreg dmem pc).dmem = true := by
  by_cases hs : d.tag = .store
  · rw [IdEx.instr_of_store hs]
    exact wf_writeCell dmemBytes dmem h _ (dataAddr_lt d.f2) _
  · rwa [exEffect_dmem _ _ _ _ fun r a hi => hs (IdEx.tag_of_instr_store hi)]

/-! ### What a step leaves, part by part -/

section
variable {s t : State} (h : s.engine ≠ .halted) (ht : step s = .next t)
include h ht

theorem step_exwbLegal : exwbLegal t := by
  intro hv
  rw [step_exwb_valid h ht] at hv
  have hexwb := step_exwb h ht
  rw [stageEffect_exState_of_valid hv] at hexwb
  exact exwbLegal_of_exEffect hexwb (by rw [step_exwb_valid h ht, hv])

theorem step_ifidLegal : ifidLegal t := by
  intro hv
  obtain ⟨-, -, hif, hback, -⟩ := stagesHandOver s t ht h
  obtain ⟨hf, hgo, hw⟩ := hback hv
  have hlt := lt_of_wordAt_ne hw
  rw [step_pc h ht hf, fetchEffect_word hgo hw, hif hf hgo hw, step_imem ht]
  exact ⟨hlt, wordAt_of_lt hlt, hw, rfl⟩

end

section
variable {s t : State} (hinv : Inv s) (h : s.engine ≠ .halted) (ht : step s = .next t)
include hinv h ht

theorem step_sregLegal : sregLegal t.sreg := by
  rw [step_sreg h ht]
  cases hv : s.idex.valid with
  | false => rw [stageEffect_exState_of_bubble hv]; exact hinv.sreg
  | true =>
    rw [stageEffect_exState_of_valid hv]
    rcases exEffect_instr_sreg s.idex (writeBack s).reg s.sreg s.dmem s.idex.pc with ⟨-, r, c, v, hset⟩ | hsame
    · rw [hset]
      exact sregLegal_setFlags hinv.sreg r c v
    · rw [hsame]
      exact hinv.sreg

theorem step_dmem_wf : Memory.wf dmemBytes t.dmem = true := by
  rw [step_dmem h ht]
  cases hv : s.idex.valid with
  | false => rw [stageEffect_exState_of_bubble hv]; exact hinv.dmemWf
  | true => rw [stageEffect_exState_of_valid hv]; exact exEffect_instr_dmem_wf _ _ _ _ hinv.dmemWf

/-- A pc below 1024 does not wrap. -/
theorem step_pcRange : t.pc.toNat ≤ imemWords := by
  cases hf : flushTaken s with
  | some target =>
    rw [step_pc_of_flush h ht hf]
    exact Nat.le_of_lt (flushTaken_some hf).1
  | none =>
    rw [step_pc h ht hf, fetchEffect_pc]
    split
    next hv =>
      have hlt := lt_of_wordAt_ne ((fetchEffect_ifid_valid_iff s _).1 hv).2
      rw [BitVec.toNat_add, imemWords]
      exact (Nat.mod_le _ _).trans (Nat.succ_le_of_lt hlt)
    next => exact hinv.pcRange

theorem step_idexLegal : idexLegal t := by
  intro hv
  obtain ⟨hid, hback, hif, hifback, -⟩ := stagesHandOver s t ht h
  obtain ⟨hf, hvs⟩ := hback hv
  obtain ⟨hlt, hword, hne, hpc⟩ := hinv.ifid hvs
  have hdec := hid hf hvs
  have hidpc : t.idex.pc = s.ifid.pc := by rw [hdec]; rfl
  rw [hidpc, step_imem ht, step_cfg ht, ← hword]
  refine ⟨hlt, hne, hdec, ?_⟩
  rw [← hpc]
  split
  next hv' =>
    obtain ⟨-, hgo, hw⟩ := hifback hv'
    rw [hif hf hgo hw]
  next hv' =>
    rw [step_ifid h ht hf] at hv'
    rw [step_pc h ht hf, fetchEffect_pc, if_neg hv']

theorem step_engineLegal : engineLegal t := by
  obtain ⟨hhalted, hdraining⟩ := haltedIsTerminalAndEmpty.2 s t h ht
  refine ⟨fun hne => ?_, hdraining, fun hh => (hhalted hh).1⟩
  have hf : flushTaken s = none := by
    cases hf : flushTaken s with
    | none => rfl
    | some target => exact absurd (step_engine_of_flush h ht hf) hne
  have hword : ∀ a : Word, wordAt t a = wordAt s a := fun a => by rw [wordAt, wordAt, step_imem ht]
  rw [step_pc h ht hf, step_ifid h ht hf, hword]
  by_cases hgo : fetches s = true
  · by_cases hw : wordAt s s.pc = haltWord
    · rw [fetchEffect_sentinel hgo hw]
      exact ⟨hw, rfl⟩
    · rw [step_engine h ht hf, fetchEffect_word hgo hw] at hne
      simp at hne
  · have hno := Bool.eq_false_of_not_eq_true hgo
    have hdrain : s.engine ≠ .running := by
      intro hr
      rw [step_engine h ht hf, fetchEffect_withheld hno, hr] at hne
      simp at hne
    rw [fetchEffect_withheld hno]
    exact ⟨(hinv.engine.1 hdrain).1, rfl⟩

end

/-- Settles O41: HALTED changes nothing, and in any other cycle each part of the invariant is kept by the stages that
write what it speaks of. -/
theorem stepKeepsTheInvariant : Obligations.StepKeepsTheInvariant := by
  intro s t hinv ht
  by_cases h : s.engine = .halted
  · obtain rfl := eq_of_step_halted h ht
    exact hinv
  exact {
    cfgWf := by rw [step_cfg ht]; exact hinv.cfgWf
    imemWf := by rw [step_imem ht]; exact hinv.imemWf
    dmemWf := step_dmem_wf hinv h ht
    pcRange := step_pcRange hinv h ht
    noFlush := step_flushReq h ht
    sreg := step_sregLegal hinv h ht
    ifid := step_ifidLegal h ht
    idex := step_idexLegal hinv h ht
    exwb := step_exwbLegal h ht
    engine := step_engineLegal hinv h ht }

theorem pipelineEmpty_iff (s : State) :
    pipelineEmpty s = true ↔ s.ifid.valid = false ∧ s.idex.valid = false ∧ s.exwb.valid = false := by
  simp [pipelineEmpty, and_assoc]

theorem Inv.empty_of_halted {s : State} (hinv : Inv s) (h : s.engine = .halted) : pipelineEmpty s = true := by
  obtain ⟨-, -, hempty⟩ := hinv.engine
  exact hempty h

/-! ### Reset and launch -/

/-- A reset with a legal map and memories in canonical form meets the invariant: nothing is in flight. -/
theorem resetWith_inv {c : Config} (regs : Vector Byte 64) {imem : List (Nat × Word)} {dmem : List Host.Cell}
    (stalls : List Bool) (hc : c.wf = true) (hi : Memory.wf imemWords imem = true)
    (hd : Memory.wf dmemBytes dmem = true) : Inv (State.resetWith c regs imem dmem stalls) where
  cfgWf := hc
  imemWf := hi
  dmemWf := hd
  pcRange := Nat.zero_le _
  noFlush := rfl
  sreg := show sregLegal 0x00 from ⟨by decide, by decide⟩
  ifid := nofun
  idex := nofun
  exwb := nofun
  engine := ⟨fun hne => absurd rfl hne, nofun, nofun⟩

/-- Settles O42: reset is a reset with this spec's map and empty memories. -/
theorem resetMeetsTheInvariant : Obligations.ResetMeetsTheInvariant :=
  resetWith_inv _ _ (by decide) rfl rfl

/-- Settles O43: a launch is a reset with the loaded program, and loading keeps the canonical form. -/
theorem launchMeetsTheInvariant : Obligations.LaunchMeetsTheInvariant := by
  intro c program regs data stalls hc hd
  rw [launch_eq]
  exact resetWith_inv regs stalls hc (loadFrom_wf program 0 _ rfl) hd

end Sys2Proof.Machine

/-! The pipeline refines the machine that runs one whole instruction at a time, so that stalls change timing only. -/

namespace Sys2Proof.Machine

/-! ### One instruction of the one-at-a-time machine -/

/-- The word at the architectural pc. -/
def Arch.word (a : Arch) : Word := readCell a.imem a.pc.toNat

/-- The architectural state once the instruction at the pc of `a` has left EX in state `u` and is written back. -/
def Arch.after (a : Arch) (u : State) : Arch :=
  { cfg := u.cfg
    rf := (writeBack u).rf
    sreg := u.sreg
    imem := u.imem
    dmem := u.dmem
    pc := u.flushReq.getD (a.pc + 1)
    diags := a.diags ++ executedDiags u.diag }

theorem Arch.step_of_exec {a : Arch} {u : State} (hpc : a.pc.toNat < imemWords) (hword : a.word ≠ haltWord)
    (hexec : exec (decode a.cfg a.word) (a.load a.word) = .next u) : a.step = some (a.after u) := by
  unfold Arch.word at hword hexec
  simp only [Arch.step, if_pos hpc, if_neg hword, hexec, Arch.after]
  cases u.flushReq <;> rfl

theorem Arch.step_eq_none {a : Arch} (h : a.pc.toNat < imemWords → a.word = haltWord) : a.step = none := by
  unfold Arch.step
  split
  next hpc => exact if_pos (h hpc)
  next => rfl

/-- WB depends on the configuration, the register file and EX/WB alone. -/
theorem writeBack_rf_congr {u t : State} (hc : u.cfg = t.cfg) (hr : u.rf = t.rf) (hx : u.exwb = t.exwb) :
    (writeBack u).rf = (writeBack t).rf := by
  simp only [writeBack, State.withRf_rf, State.setReg, hc, hr, hx]

/-! ### The address of the oldest instruction that has not been in EX -/

/-- The address of the oldest instruction that has not been decoded. -/
def frontAddr (s : State) : Word := if s.ifid.valid then s.ifid.pc else s.pc

theorem nextAddr_of_valid {s : State} (h : s.idex.valid = true) : nextAddr s = s.idex.pc := if_pos h

theorem nextAddr_of_bubble {s : State} (h : s.idex.valid = false) : nextAddr s = frontAddr s :=
  if_neg (by simp [h])

/-- Without a flush, ID moves the front of the instruction stream into ID/EX and IF keeps it at the old pc. -/
theorem nextAddr_step {s t : State} (h : s.engine ≠ .halted) (ht : step s = .next t) (hf : flushTaken s = none) :
    nextAddr t = frontAddr s := by
  unfold frontAddr
  cases hv : s.ifid.valid with
  | true =>
    have hidex : t.idex = decodeIdEx s.cfg s.ifid.word s.ifid.pc := by rw [step_idex h ht hf, idResult, if_pos hv]
    rw [nextAddr_of_valid (by rw [hidex]; rfl), hidex]
    rfl
  | false =>
    rw [nextAddr_of_bubble ((step_idex_valid h ht hf).trans hv), frontAddr, step_ifid h ht hf,
      step_pc h ht hf, fetchEffect_pc]
    split
    next hif =>
      obtain ⟨hgo, hw⟩ := (fetchEffect_ifid_valid_iff s _).1 hif
      rw [fetchEffect_word hgo hw]
      rfl
    next => rfl

/-- After a flush the next instruction to execute is the one at the target. -/
theorem nextAddr_step_of_flush {s t : State} (h : s.engine ≠ .halted) (ht : step s = .next t) {target : Word}
    (hf : flushTaken s = some target) : nextAddr t = target := by
  rw [nextAddr_of_bubble (by rw [step_idex_of_flush h ht hf]; rfl), frontAddr, step_ifid_of_flush h ht hf,
    step_pc_of_flush h ht hf]
  rfl

/-! ### Cycles and instructions -/

/-- A diagnostic is of an execution or it is not: those EX raises are, those IF raises are not. -/
theorem stageEffect_raised_executed (s : State) : ∀ d ∈ (stageEffect s).raised, ofExecution d = true := by
  cases hv : s.idex.valid with
  | false => simp [stageEffect_bubble hv]
  | true =>
    rw [stageEffect, if_pos hv]
    exact (exEffect_instr_raised _ _ _ _ _).2

theorem executedDiags_step {s t : State} (h : s.engine ≠ .halted) (ht : step s = .next t) :
    executedDiags t.diag = executedDiags s.diag ++ (stageEffect (writeBack (beginCycle s))).raised := by
  rw [step_diag h ht]
  simp [List.filter_eq_self.2 (stageEffect_raised_executed _)]

/-- A cycle with a bubble in EX is no instruction. -/
theorem archOf_step_of_bubble {s t : State} (h : s.engine ≠ .halted) (ht : step s = .next t)
    (hv : s.idex.valid = false) : archOf t = archOf s := by
  have hidle := stageEffect_exState_of_bubble hv
  have hrf : (writeBack t).rf = (writeBack s).rf := by
    rw [writeBack_rf_of_bubble ((step_exwb_valid h ht).trans hv), step_rf h ht]
  simp only [archOf, Arch.mk.injEq]
  refine ⟨step_cfg ht, hrf, ?_, step_imem ht, ?_, ?_, ?_⟩
  · rw [step_sreg h ht, hidle]
  · rw [step_dmem h ht, hidle]
  · rw [nextAddr_step h ht (flushTaken_of_bubble hv), nextAddr_of_bubble hv]
  · rw [executedDiags_step h ht, hidle, List.append_nil]

/-- A cycle with an instruction in EX is that instruction. -/
theorem archOf_step_of_valid {s t : State} (hinv : Inv s) (h : s.engine ≠ .halted) (ht : step s = .next t)
    (hv : s.idex.valid = true) : (archOf s).step = some (archOf t) := by
  obtain ⟨hlt, hne, hdec, hnext⟩ := hinv.idex hv
  have hpc : (archOf s).pc = s.idex.pc := nextAddr_of_valid hv
  have hword : (archOf s).word = readCell s.imem s.idex.pc.toNat := by rw [Arch.word, hpc]; rfl
  have hinstr : decode s.cfg (readCell s.imem s.idex.pc.toNat) = s.idex.instr := by
    rw [← instr_decodeIdEx s.cfg s.idex.pc hne, ← hdec]
  have heff := stageEffect_exState_of_valid hv
  have hexec : exec (decode (archOf s).cfg (archOf s).word) ((archOf s).load (archOf s).word) =
      .next ((stageEffect (writeBack (beginCycle s))).on ((archOf s).load (archOf s).word)) := by
    rw [heff, ← hpc, hword]
    exact (congrArg (exec · _) hinstr).trans (exec_eq _ (IdEx.instr_ne_halt s.idex))
  rw [Arch.step_of_exec (hpc ▸ hlt) (hword ▸ hne) hexec]
  simp only [Arch.after, archOf, Option.some.injEq, Arch.mk.injEq]
  refine ⟨(step_cfg ht).symm, ?_, (step_sreg h ht).symm, (step_imem ht).symm, (step_dmem h ht).symm, ?_, ?_⟩
  · exact writeBack_rf_congr (step_cfg ht).symm (step_rf h ht).symm (step_exwb h ht).symm
  · have hreq : ∀ (f : ExEffect) (u : State), u.flushReq = none → (f.on u).flushReq = f.redirect := by
      intro f u hu
      simp [ExEffect.on, hu]
    rw [hreq _ _ rfl, ← flushTaken_eq]
    cases hf : flushTaken s with
    | some target => exact (nextAddr_step_of_flush h ht hf).symm
    | none =>
      rw [nextAddr_step h ht hf, Option.getD_none, nextAddr_of_valid hv]
      exact hnext.symm
  · rw [executedDiags_step h ht]
    have hdiag : ∀ f : ExEffect, executedDiags (f.on ((archOf s).load (archOf s).word)).diag =
        f.raised.filter ofExecution := fun f => executedDiags_stamped _ f.raised
    exact congrArg _ ((hdiag _).trans (List.filter_eq_self.2 (stageEffect_raised_executed _)))

/-- What an empty pipeline leaves to see: the registers and the pc as they stand. -/
theorem archOf_of_empty {s : State} (h : pipelineEmpty s = true) :
    archOf s = ⟨s.cfg, s.rf, s.sreg, s.imem, s.dmem, s.pc, executedDiags s.diag⟩ := by
  obtain ⟨hif, hid, hx⟩ := (pipelineEmpty_iff s).1 h
  rw [archOf, writeBack_rf_of_bubble hx, nextAddr_of_bubble hid, frontAddr, hif]
  rfl

/-- HALTED stands at a HALT word or outside IMEM, where there is no instruction. -/
theorem archOf_step_of_halted {s : State} (hinv : Inv s) (h : s.engine = .halted) : (archOf s).step = none := by
  obtain ⟨hstop, -⟩ := hinv.engine
  obtain ⟨hword, -⟩ := hstop (by simp [h])
  rw [archOf_of_empty (hinv.empty_of_halted h)]
  exact Arch.step_eq_none fun hpc => (wordAt_of_lt hpc).symm.trans hword

/-- Settles O44: the three kinds of cycle. -/
theorem pipelineRefinesSequentialMachine : Obligations.PipelineRefinesSequentialMachine := fun _ _ hinv ht =>
  ⟨fun h hv => archOf_step_of_valid hinv h ht hv, fun h hv => archOf_step_of_bubble h ht hv,
    archOf_step_of_halted hinv⟩

/-! ### Whole runs -/

/-- A run of the pipeline is a run of the one-at-a-time machine, and it keeps the invariant. -/
theorem runCycles_refines (k : Nat) {s : State} (hinv : Inv s) :
    Inv (runCycles k s).final ∧
      StateTransition.Reaches Arch.step (archOf s) (archOf (runCycles k s).final) := by
  induction k generalizing s with
  | zero => exact ⟨hinv, .refl⟩
  | succ k ih =>
    by_cases h : s.engine = .halted
    · rw [runCycles_halted h]
      exact ⟨hinv, .refl⟩
    obtain ⟨t, ht⟩ := step_answers s
    obtain ⟨hfinal, hreach⟩ := ih (stepKeepsTheInvariant s t hinv ht)
    rw [runCycles_succ h ht]
    refine ⟨hfinal, ?_⟩
    cases hv : s.idex.valid with
    | true => exact .head (archOf_step_of_valid hinv h ht hv) hreach
    | false => exact archOf_step_of_bubble h ht hv ▸ hreach

theorem runCycles_engine_of_halted {k : Nat} {s : State} (h : (runCycles k s).outcome = .halted) :
    (runCycles k s).final.engine = .halted :=
  (runEnd_eq_halted_iff _).1 ((runCycles_spec k s).1.symm.trans h)

/-- Two halting runs that begin in one architectural state end in one, since the one-at-a-time machine is
deterministic. -/
theorem archOf_final_eq {s s' : State} {k k' : Nat} (hinv : Inv s) (hinv' : Inv s') (hs : archOf s = archOf s')
    (hk : (runCycles k s).outcome = .halted) (hk' : (runCycles k' s').outcome = .halted) :
    archOf (runCycles k s).final = archOf (runCycles k' s').final := by
  have heval : ∀ {u : State} {m : Nat}, Inv u → (runCycles m u).outcome = .halted →
      archOf (runCycles m u).final ∈ StateTransition.eval Arch.step (archOf u) := by
    intro u m hu hm
    obtain ⟨hfinal, hreach⟩ := runCycles_refines m hu
    exact StateTransition.mem_eval.2 ⟨hreach, archOf_step_of_halted hfinal (runCycles_engine_of_halted hm)⟩
  exact Part.mem_unique (heval hinv hk) (hs ▸ heval hinv' hk')

/-- Two such runs end with the same registers, SREG, memories, pc and executed diagnostics, since at their end the
pipeline is empty. -/
theorem final_eq {s s' : State} {k k' : Nat} (hinv : Inv s) (hinv' : Inv s') (hs : archOf s = archOf s')
    (hk : (runCycles k s).outcome = .halted) (hk' : (runCycles k' s').outcome = .halted) :
    let t := (runCycles k s).final
    let t' := (runCycles k' s').final
    t.rf = t'.rf ∧ t.sreg = t'.sreg ∧ t.imem = t'.imem ∧ t.dmem = t'.dmem ∧ t.pc = t'.pc ∧
      executedDiags t.diag = executedDiags t'.diag := by
  intro t t'
  have harch : archOf t = archOf t' := archOf_final_eq hinv hinv' hs hk hk'
  have hempty : ∀ {u : State} {m : Nat}, Inv u → (runCycles m u).outcome = .halted →
      pipelineEmpty (runCycles m u).final = true := fun {u m} hu hm =>
    (runCycles_refines m hu).1.empty_of_halted (runCycles_engine_of_halted hm)
  rw [archOf_of_empty (hempty hinv hk), archOf_of_empty (hempty hinv' hk'), Arch.mk.injEq] at harch
  exact harch.2

end Sys2Proof.Machine

/-! Stalls and the diagnostics of a run (70_reset_and_hazards.md R303 as far as it follows from R290, log 16). -/

namespace Sys2Proof.Machine

/-- The invariant does not speak of the stall inputs. -/
theorem Inv.withStallIn {s : State} (h : Inv s) (l : List Bool) : Inv (s.withStallIn l) :=
  ⟨h.cfgWf, h.imemWf, h.dmemWf, h.pcRange, h.noFlush, h.sreg, h.ifid, h.idex, h.exwb, h.engine⟩

/-! ### The diagnostics a run appends -/

/-- DIAG only grows. -/
theorem runCycles_diag (k : Nat) (s : State) : ∃ l, (runCycles k s).final.diag = s.diag ++ l := by
  induction k generalizing s with
  | zero => exact ⟨[], (List.append_nil _).symm⟩
  | succ k ih =>
    by_cases h : s.engine = .halted
    · rw [runCycles_halted h]
      exact ⟨[], (List.append_nil _).symm⟩
    obtain ⟨t, ht⟩ := step_answers s
    obtain ⟨l, hl⟩ := ih t
    rw [runCycles_succ h ht, hl, step_diag h ht, List.append_assoc, List.append_assoc]
    exact ⟨_, rfl⟩

/-- If all that was raised belongs to executed instructions, it is what the executed diagnostics gained. -/
theorem executedDiags_eq_append_raisedSince {s t : State} (hgrow : ∃ l, t.diag = s.diag ++ l)
    (hall : ∀ d ∈ raisedSince s t, ofExecution d = true) :
    executedDiags t.diag = executedDiags s.diag ++ raisedSince s t := by
  obtain ⟨l, hl⟩ := hgrow
  have hraised : raisedSince s t = l.map Event.diag := by rw [raisedSince, hl, List.drop_left]
  rw [hraised] at hall ⊢
  rw [hl, executedDiags_append]
  exact congrArg _ (List.filter_eq_self.2 hall)

/-! ### The fetch diagnostics no flush discards -/

theorem fetchEffect_raised_not_executed (s : State) (n : Nat) :
    ∀ d ∈ (fetchEffect s n).raised, ofExecution d = false := by
  rw [fetchEffect_raised]
  split <;> simp [ofExecution]

/-- Of what a step raises, IF raised the diagnostics that belong to no execution. -/
theorem raisedSince_step_filter {s t : State} (h : s.engine ≠ .halted) (ht : step s = .next t) :
    (raisedSince s t).filter (fun d => !ofExecution d) = (fetchEffect s (s.cycle + 1)).raised := by
  have hmap : ∀ (n : Nat) (l : List Diag), (stamped n l).map Event.diag = l := fun n l => by
    rw [stamped, List.map_map]
    exact List.map_id l
  rw [raisedSince, step_diag h ht, List.append_assoc, List.drop_left, List.map_append, hmap, hmap, List.filter_append,
    List.filter_eq_nil_iff.2 fun d hd => by simp [stageEffect_raised_executed _ d hd],
    List.filter_eq_self.2 fun d hd => by simp [fetchEffect_raised_not_executed _ _ d hd], List.nil_append]

theorem keptFetchDiags_succ {s t : State} (h : s.engine ≠ .halted) (ht : step s = .next t) (k : Nat)
    (pending : List Diag) :
    keptFetchDiags (k + 1) s pending =
      keptFetchDiags k t (if (flushTaken s).isSome then [] else pending ++ (fetchEffect s (s.cycle + 1)).raised) := by
  rw [keptFetchDiags, ht]
  simp only [raisedSince_step_filter h ht]

/-- In HALTED nothing more is raised and nothing discarded. -/
theorem keptFetchDiags_of_halted {s : State} (hinv : Inv s) (h : s.engine = .halted) (k : Nat) (pending : List Diag) :
    keptFetchDiags k s pending = pending := by
  obtain ⟨-, hid, -⟩ := (pipelineEmpty_iff s).1 (hinv.empty_of_halted h)
  induction k generalizing pending with
  | zero => rfl
  | succ k ih =>
    rw [keptFetchDiags, step_halted h]
    simp [flushTaken_of_bubble hid, raisedSince, ih]

/-- The fetch diagnostic that stands when the engine has left RUNNING: that of a pc outside IMEM. -/
def standingFetchDiags (s : State) : List Diag :=
  if s.engine ≠ .running ∧ 1024 ≤ s.pc.toNat then [.imemFetchOob s.pc] else []

theorem standingFetchDiags_of_running {s : State} (h : s.engine = .running) : standingFetchDiags s = [] :=
  if_neg fun hc => hc.1 h

theorem standingFetchDiags_of_stopped {s : State} (h : s.engine ≠ .running) :
    standingFetchDiags s = if 1024 ≤ s.pc.toNat then [.imemFetchOob s.pc] else [] :=
  if_congr (and_iff_right h) rfl rfl

/-- A cycle makes the diagnostic of its fetch the standing one, keeps it while draining, and a flush withdraws it. -/
theorem standingFetchDiags_step {s t : State} (h : s.engine ≠ .halted) (ht : step s = .next t) :
    (if (flushTaken s).isSome then [] else standingFetchDiags s ++ (fetchEffect s (s.cycle + 1)).raised) =
      standingFetchDiags t := by
  cases hf : flushTaken s with
  | some target => exact (standingFetchDiags_of_running (step_engine_of_flush h ht hf)).symm
  | none =>
    simp only [Option.isSome_none, Bool.false_eq_true, if_false]
    obtain ⟨-, -, hsentinel, hgoes, -, hdrains⟩ := engineTransitions s t ht
    have hpc := step_pc h ht hf
    by_cases hgo : fetches s = true
    · obtain ⟨hrun, hstall⟩ := (fetches_eq_true_iff s).1 hgo
      rw [standingFetchDiags_of_running hrun, List.nil_append]
      by_cases hw : wordAt s s.pc = haltWord
      · have hstop : t.engine ≠ .running := by
          rw [hsentinel hrun hf hstall hw]
          split <;> decide
        rw [fetchEffect_sentinel hgo hw] at hpc
        rw [fetchEffect_raised, standingFetchDiags_of_stopped hstop, hpc]
        exact if_congr (and_iff_right hgo) rfl rfl
      · rw [fetchEffect_word hgo hw, standingFetchDiags_of_running (hgoes hrun (.inr hw))]
    · have hno := Bool.eq_false_of_not_eq_true hgo
      rw [fetchEffect_withheld hno] at hpc ⊢
      rw [List.append_nil]
      by_cases hrun : s.engine = .running
      · have hstall := ((fetches_eq_false_iff s).1 hno).resolve_left (fun hc => hc hrun)
        rw [standingFetchDiags_of_running hrun, standingFetchDiags_of_running (hgoes hrun (.inl hstall))]
      · have hstop : t.engine ≠ .running := by
          rw [hdrains (eq_draining h hrun) hf]
          split <;> decide
        rw [standingFetchDiags_of_stopped hrun, standingFetchDiags_of_stopped hstop, hpc]

/-- A halting run that begins with the standing diagnostic pending keeps the one that stands at its end. -/
theorem keptFetchDiags_standing {k : Nat} {s : State} (hinv : Inv s) (hk : (runCycles k s).outcome = .halted) :
    keptFetchDiags k s (standingFetchDiags s) = standingFetchDiags (runCycles k s).final := by
  induction k generalizing s with
  | zero => rfl
  | succ k ih =>
    by_cases h : s.engine = .halted
    · rw [keptFetchDiags_of_halted hinv h, runCycles_halted h]
    · obtain ⟨t, ht⟩ := step_answers s
      rw [runCycles_succ h ht] at hk ⊢
      rw [keptFetchDiags_succ h ht, standingFetchDiags_step h ht]
      exact ih (stepKeepsTheInvariant s t hinv ht) hk

/-- From a RUNNING engine, that is the diagnostic of the final pc. -/
theorem keptFetchDiags_of_running {k : Nat} {s : State} (hinv : Inv s) (hrun : s.engine = .running)
    (hk : (runCycles k s).outcome = .halted) :
    keptFetchDiags k s [] =
      if 1024 ≤ (runCycles k s).final.pc.toNat then [.imemFetchOob (runCycles k s).final.pc] else [] := by
  have hstanding := keptFetchDiags_standing hinv hk
  rw [standingFetchDiags_of_running hrun] at hstanding
  rw [hstanding, standingFetchDiags_of_stopped (by simp [runCycles_engine_of_halted hk])]

/-- In DRAINING a step does not see the stall inputs, and IF raises nothing. -/
theorem step_withStallIn_of_draining {s : State} (hd : s.engine = .draining) :
    ∃ r : State, (∀ l, step (s.withStallIn l) = .next (r.withStallIn l.tail)) ∧
      ∀ l n, (fetchEffect (s.withStallIn l) n).raised = [] := by
  have hidle : ∀ l n, fetchEffect (s.withStallIn l) n = ⟨bubbleIfId n, s.pc, s.engine, []⟩ := fun l n =>
    fetchEffect_withheld (s := s.withStallIn l) ((fetches_eq_false_iff _).2 (.inl (by simp [hd]))) n
  refine ⟨stepResult s (stageEffect (writeBack (beginCycle s))) ⟨bubbleIfId (s.cycle + 1), s.pc, s.engine, []⟩,
    fun l => ?_, fun l n => by rw [hidle]⟩
  obtain ⟨t, ht⟩ := step_answers (s.withStallIn l)
  have hne : s.engine ≠ .halted := by simp [hd]
  rw [ht, step_withStallIn hne ht, hidle]

/-- The kept fetch diagnostics of a halting run do not depend on the stalls. In RUNNING they are those of the final pc,
in HALTED there are none, and in DRAINING the two runs take the same steps until they halt or a flush restarts them. -/
theorem keptFetchDiags_stalls {k k' : Nat} {s : State} {l l' : List Bool} (hinv : Inv s)
    (hk : (runCycles k (s.withStallIn l)).outcome = .halted)
    (hk' : (runCycles k' (s.withStallIn l')).outcome = .halted) :
    keptFetchDiags k (s.withStallIn l) [] = keptFetchDiags k' (s.withStallIn l') [] := by
  induction k generalizing k' s l l' with
  | zero =>
    have hh : s.engine = .halted := runCycles_engine_of_halted hk
    rw [keptFetchDiags_of_halted (hinv.withStallIn l) hh, keptFetchDiags_of_halted (hinv.withStallIn l') hh]
  | succ k ih =>
    cases he : s.engine with
    | halted => rw [keptFetchDiags_of_halted (hinv.withStallIn l) he, keptFetchDiags_of_halted (hinv.withStallIn l') he]
    | running =>
      obtain ⟨-, -, -, -, hpc, -⟩ := final_eq (hinv.withStallIn l) (hinv.withStallIn l') rfl hk hk'
      rw [keptFetchDiags_of_running (hinv.withStallIn l) he hk, keptFetchDiags_of_running (hinv.withStallIn l') he hk',
        hpc]
    | draining =>
      obtain ⟨r, hstep, hquiet⟩ := step_withStallIn_of_draining he
      have hne : s.engine ≠ .halted := by simp [he]
      have hr : Inv r := (stepKeepsTheInvariant _ _ (hinv.withStallIn l) (hstep l)).withStallIn r.stallIn
      cases k' with
      | zero => exact absurd (runCycles_engine_of_halted hk') hne
      | succ k' =>
        rw [runCycles_succ (s := s.withStallIn l) hne (hstep l)] at hk
        rw [runCycles_succ (s := s.withStallIn l') hne (hstep l')] at hk'
        rw [keptFetchDiags_succ (s := s.withStallIn l) hne (hstep l),
          keptFetchDiags_succ (s := s.withStallIn l') hne (hstep l'), hquiet, hquiet,
          List.append_nil, ite_self, ite_self]
        exact ih hr hk hk'

/-- Settles O45: both runs end in the architectural state in which the one-at-a-time machine ends, and that state fixes
the diagnostics as far as stated. -/
theorem stallsChangeTimingOnly : Obligations.StallsChangeTimingOnly := by
  intro s l l' k k' hinv hk hk' t t'
  have hl : Inv (s.withStallIn l) := hinv.withStallIn l
  have hl' : Inv (s.withStallIn l') := hinv.withStallIn l'
  obtain ⟨hrf, hsreg, himem, hdmem, hpc, hdiags⟩ := final_eq hl hl' rfl hk hk'
  refine ⟨hrf, hsreg, hdmem, himem, hpc, fun hall => ?_, hdiags, keptFetchDiags_stalls hinv hk hk'⟩
  have hgain : executedDiags t.diag = executedDiags s.diag ++ raisedSince s t :=
    executedDiags_eq_append_raisedSince (runCycles_diag k (s.withStallIn l))
      fun d hd => hall d (List.mem_append_left _ hd)
  have hgain' : executedDiags t'.diag = executedDiags s.diag ++ raisedSince s t' :=
    executedDiags_eq_append_raisedSince (runCycles_diag k' (s.withStallIn l'))
      fun d hd => hall d (List.mem_append_right _ hd)
  exact List.append_cancel_left (hgain.symm.trans (hdiags.trans hgain'))

end Sys2Proof.Machine

/-! How long a run without stalls takes (70_reset_and_hazards.md R331), and the entry `withFetchWord` (log 3). -/

namespace Sys2Proof.Machine

/-! ### The counts, one cycle at a time -/

section
variable {s t : State} (ht : step s = .next t) (k : Nat)
include ht

theorem executedIn_succ_of_valid (h : s.engine ≠ .halted) (hv : s.idex.valid = true) :
    executedIn (k + 1) s = 1 + executedIn k t := by
  simp [executedIn, ht, h, hv]

theorem executedIn_succ_of_bubble (hv : s.idex.valid = false) : executedIn (k + 1) s = executedIn k t := by
  simp [executedIn, ht, hv]

theorem innerFlushes_succ_of_none (hf : flushTaken s = none) : innerFlushes (k + 1) s = innerFlushes k t := by
  simp [innerFlushes, ht, hf]

/-- A flush that no instruction follows is not an inner one. -/
theorem innerFlushes_succ_of_last (hE : executedIn k t = 0) : innerFlushes (k + 1) s = innerFlushes k t := by
  simp [innerFlushes, ht, hE]

theorem innerFlushes_succ_of_flush {target : Word} (hf : flushTaken s = some target) (hE : executedIn k t ≠ 0) :
    innerFlushes (k + 1) s = 1 + innerFlushes k t := by
  simp [innerFlushes, ht, hf, hE]

end

/-! ### The pipeline of a run without stalls -/

/-- No stall is to come, and while the engine runs an instruction in ID/EX has one behind it in IF/ID: only the
sentinel, which ends RUNNING, leaves a gap there. -/
structure Flowing (s : State) : Prop where
  noStall : s.stallIn = []
  fed : s.engine = .running → s.idex.valid = true → s.ifid.valid = true

/-- Nothing is on its way to EX and nothing will be fetched. -/
def Idle (s : State) : Prop :=
  s.ifid.valid = false ∧ s.idex.valid = false ∧ (s.engine = .running → wordAt s s.pc = haltWord)

theorem not_idle_of_ifid {s : State} (h : s.ifid.valid = true) : ¬Idle s := fun hi => by simp [hi.1] at h

theorem not_idle_of_idex {s : State} (h : s.idex.valid = true) : ¬Idle s := fun hi => by simp [hi.2.1] at h

/-- The cycles, beside those with an instruction in EX and those a flush costs, that a run takes to HALTED from a state
that is not idle: those until the next EX, and the last WB. -/
def fillAndDrain (s : State) : Nat := if s.idex.valid then 1 else if s.ifid.valid then 2 else 3

theorem fillAndDrain_of_idex {s : State} (h : s.idex.valid = true) : fillAndDrain s = 1 := if_pos h

theorem fillAndDrain_of_ifid {s : State} (hid : s.idex.valid = false) (hif : s.ifid.valid = true) :
    fillAndDrain s = 2 := by
  simp [fillAndDrain, hid, hif]

theorem fillAndDrain_of_empty_front {s : State} (hif : s.ifid.valid = false) (hid : s.idex.valid = false) :
    fillAndDrain s = 3 := by
  simp [fillAndDrain, hid, hif]

/-- The next `n` cycles from a state that is not idle are as many as the instructions and flushes in them need. -/
def Accounted (n : Nat) (s : State) : Prop :=
  executedIn n s ≠ 0 ∧ n = executedIn n s + 2 * innerFlushes n s + fillAndDrain s

/-- A run that halts after `n` cycles: one cycle from an idle state, an accounted number from any other. -/
structure LastsFor (n : Nat) (s : State) : Prop where
  ofIdle : Idle s → executedIn n s = 0 ∧ innerFlushes n s = 0 ∧ n = 1
  ofBusy : ¬Idle s → Accounted n s

section
variable {s t : State} (h : s.engine ≠ .halted) (ht : step s = .next t)

theorem Flowing.fetches_of_running (hs : Flowing s) (hr : s.engine = .running) : fetches s = true :=
  (fetches_eq_true_iff s).2 ⟨hr, by rw [stalled, hs.noStall]; rfl⟩

include h ht

/-- Without a flush, RUNNING is left exactly on reading the sentinel. -/
theorem fetches_word_of_running (hs : Flowing s) (hf : flushTaken s = none) (hrun : t.engine = .running) :
    fetches s = true ∧ wordAt s s.pc ≠ haltWord := by
  obtain ⟨-, -, hsentinel, -, -, hdrains⟩ := engineTransitions s t ht
  have hr : s.engine = .running := by
    by_contra hc
    rw [hdrains (eq_draining h hc) hf] at hrun
    split at hrun <;> cases hrun
  have hgo := hs.fetches_of_running hr
  refine ⟨hgo, fun hw => ?_⟩
  rw [hsentinel hr hf ((fetches_eq_true_iff s).1 hgo).2 hw] at hrun
  split at hrun <;> cases hrun

theorem Flowing.step (hs : Flowing s) : Flowing t where
  noStall := by rw [step_stallIn h ht, hs.noStall]; rfl
  fed := fun hrun hv => by
    obtain ⟨-, hback, -⟩ := stagesHandOver s t ht h
    obtain ⟨hf, -⟩ := hback hv
    exact (step_ifid_valid_iff h ht hf).2 (fetches_word_of_running h ht hs hf hrun)

/-- A flush leaves nothing in front of EX. -/
theorem step_front_of_flush {target : Word} (hf : flushTaken s = some target) :
    t.ifid.valid = false ∧ t.idex.valid = false := by
  rw [step_ifid_of_flush h ht hf, step_idex_of_flush h ht hf]
  exact ⟨rfl, rfl⟩

/-- The engine halts at the end of a cycle exactly if the cycle began idle. -/
theorem step_halts_iff (hs : Flowing s) : t.engine = .halted ↔ Idle s := by
  constructor
  · intro hh
    obtain ⟨hempty, hf⟩ := (haltedIsTerminalAndEmpty.2 s t h ht).1 hh
    obtain ⟨hif, hid, hx⟩ := (pipelineEmpty_iff t).1 hempty
    rw [step_idex_valid h ht hf] at hid
    rw [step_exwb_valid h ht] at hx
    refine ⟨hid, hx, fun hr => ?_⟩
    by_contra hw
    rw [(step_ifid_valid_iff h ht hf).2 ⟨hs.fetches_of_running hr, hw⟩] at hif
    cases hif
  · rintro ⟨hif, hid, hw⟩
    have hf := flushTaken_of_bubble hid
    have hstop : ¬(fetches s = true ∧ wordAt s s.pc ≠ haltWord) := fun hc =>
      hc.2 (hw ((fetches_eq_true_iff s).1 hc.1).1)
    have hempty : pipelineEmpty t = true := (pipelineEmpty_iff t).2
      ⟨Bool.eq_false_of_not_eq_true fun hv => hstop ((step_ifid_valid_iff h ht hf).1 hv),
        (step_idex_valid h ht hf).trans hif, (step_exwb_valid h ht).trans hid⟩
    cases he : t.engine with
    | halted => rfl
    | running => exact absurd (fetches_word_of_running h ht hs hf he) hstop
    | draining =>
      rw [(haltedIsTerminalAndEmpty.2 s t h ht).2 he] at hempty
      cases hempty

/-- The last cycle: an idle pipeline halts in it. -/
theorem LastsFor.last (hs : Flowing s) (hh : t.engine = .halted) : LastsFor 1 s := by
  have hidle := (step_halts_iff h ht hs).1 hh
  have ⟨_, hid, _⟩ := hidle
  exact ⟨fun _ => ⟨executedIn_succ_of_bubble ht 0 hid, innerFlushes_succ_of_last ht 0 rfl, rfl⟩,
    fun hb => absurd hidle hb⟩

/-- A bubble in EX: the pipeline fills by one stage. -/
theorem accounted_succ_of_bubble (hs : Flowing s) (hbusy : ¬Idle s) (hid : s.idex.valid = false) {m : Nat}
    (hm : LastsFor m t) : Accounted (m + 1) s := by
  have hf := flushTaken_of_bubble hid
  have htid := step_idex_valid h ht hf
  rw [Accounted, executedIn_succ_of_bubble ht m hid, innerFlushes_succ_of_none ht m hf]
  cases hif : s.ifid.valid with
  | true =>
    rw [hif] at htid
    obtain ⟨hE, hn⟩ := hm.ofBusy (not_idle_of_idex htid)
    rw [fillAndDrain_of_idex htid] at hn
    rw [fillAndDrain_of_ifid hid hif]
    exact ⟨hE, by omega⟩
  | false =>
    rw [hif] at htid
    have hword : fetches s = true ∧ wordAt s s.pc ≠ haltWord := by
      by_contra hc
      refine hbusy ⟨hif, hid, fun hr => ?_⟩
      by_contra hw
      exact hc ⟨hs.fetches_of_running hr, hw⟩
    have htif := (step_ifid_valid_iff h ht hf).2 hword
    obtain ⟨hE, hn⟩ := hm.ofBusy (not_idle_of_ifid htif)
    rw [fillAndDrain_of_ifid htid htif] at hn
    rw [fillAndDrain_of_empty_front hif hid]
    exact ⟨hE, by omega⟩

/-- A flush: the pipeline is empty in front of EX, and fills again if an instruction is still to come. -/
theorem accounted_succ_of_flush (hid : s.idex.valid = true) {target : Word} (hf : flushTaken s = some target) {m : Nat}
    (hm : LastsFor m t) : Accounted (m + 1) s := by
  obtain ⟨htif, htid⟩ := step_front_of_flush h ht hf
  rw [Accounted, executedIn_succ_of_valid ht m h hid, fillAndDrain_of_idex hid]
  by_cases hi : Idle t
  · obtain ⟨hE, hT, rfl⟩ := hm.ofIdle hi
    rw [innerFlushes_succ_of_last ht 1 hE]
    omega
  · obtain ⟨hE, hn⟩ := hm.ofBusy hi
    rw [fillAndDrain_of_empty_front htif htid] at hn
    rw [innerFlushes_succ_of_flush ht m hf hE]
    omega

/-- An instruction in EX that does not flush: the next one follows at once, or none does and the pipeline drains. -/
theorem accounted_succ_of_instr (hs : Flowing s) (hid : s.idex.valid = true) (hf : flushTaken s = none) {m : Nat}
    (hm : LastsFor m t) : Accounted (m + 1) s := by
  have htid := step_idex_valid h ht hf
  rw [Accounted, executedIn_succ_of_valid ht m h hid, innerFlushes_succ_of_none ht m hf, fillAndDrain_of_idex hid]
  cases hif : s.ifid.valid with
  | true =>
    rw [hif] at htid
    obtain ⟨hE, hn⟩ := hm.ofBusy (not_idle_of_idex htid)
    rw [fillAndDrain_of_idex htid] at hn
    omega
  | false =>
    have hno : fetches s ≠ true := fun hgo => by
      rw [hs.fed ((fetches_eq_true_iff s).1 hgo).1 hid] at hif
      cases hif
    have hi : Idle t := ⟨Bool.eq_false_of_not_eq_true fun hv => hno ((step_ifid_valid_iff h ht hf).1 hv).1,
      htid.trans hif, fun hr => absurd (fetches_word_of_running h ht hs hf hr).1 hno⟩
    obtain ⟨hE, hT, rfl⟩ := hm.ofIdle hi
    omega

/-- One cycle more before a run that does not halt in it. -/
theorem LastsFor.succ (hs : Flowing s) (hne : t.engine ≠ .halted) {m : Nat} (hm : LastsFor m t) :
    LastsFor (m + 1) s := by
  have hbusy : ¬Idle s := fun hi => hne ((step_halts_iff h ht hs).2 hi)
  refine ⟨fun hi => absurd hi hbusy, fun _ => ?_⟩
  cases hid : s.idex.valid with
  | false => exact accounted_succ_of_bubble h ht hs hbusy hid hm
  | true =>
    cases hf : flushTaken s with
    | some target => exact accounted_succ_of_flush h ht hid hf hm
    | none => exact accounted_succ_of_instr h ht hs hid hf hm

end

/-- A halting run without stalls lasts as long as its instructions and flushes account for. -/
theorem runCycles_lastsFor {k : Nat} {s : State} (hs : Flowing s) (h : s.engine ≠ .halted)
    (hk : (runCycles k s).outcome = .halted) :
    ∃ n, (runCycles k s).final.cycle = s.cycle + n ∧ LastsFor n s := by
  induction k generalizing s with
  | zero => exact absurd (runCycles_engine_of_halted hk) h
  | succ k ih =>
    obtain ⟨t, ht⟩ := step_answers s
    rw [runCycles_succ h ht] at hk ⊢
    by_cases hh : t.engine = .halted
    · rw [runCycles_halted hh]
      exact ⟨1, step_cycle h ht, .last h ht hs hh⟩
    · obtain ⟨n, hn, hlasts⟩ := ih (hs.step h ht) hh hk
      rw [step_cycle h ht] at hn
      exact ⟨n + 1, by omega, hlasts.succ h ht hs hh⟩

/-- Settles O58: a launch has nothing in flight, so it is three cycles from filling and draining, unless it begins at
the sentinel. -/
theorem runLengthCountsInstructionsAndFlushes : Obligations.RunLengthCountsInstructionsAndFlushes := by
  intro c program regs data k s r hr
  have hs : s = State.resetWith c regs _ data [] := launch_eq c program regs data []
  have hflow : Flowing s := by
    rw [hs]
    exact ⟨rfl, fun _ hv => by cases hv⟩
  have hgap : fillAndDrain s = 3 := by rw [hs]; rfl
  have hzero : s.cycle = 0 := by rw [hs]; rfl
  have hne : s.engine ≠ .halted := by rw [hs]; exact nofun
  obtain ⟨n, hn, hlasts⟩ := runCycles_lastsFor hflow hne hr
  have hcycle : r.final.cycle = n := hn.trans (by rw [hzero, Nat.zero_add])
  rw [hcycle]
  by_cases hi : Idle s
  · obtain ⟨hE, -, hone⟩ := hlasts.ofIdle hi
    rw [if_pos hE, hone]
  · obtain ⟨hE, hlen⟩ := hlasts.ofBusy hi
    rw [if_neg hE]
    omega

/-! ### The word placed by `withFetchWord` -/

theorem tableWord_toNat (w : Word) : tableWord 16 w.toNat = w := by
  rw [tableWord, Nat.mod_eq_of_lt w.isLt, BitVec.ofNat_toNat, BitVec.setWidth_eq]

/-- Loading a word at the pc changes IMEM alone. -/
theorem loadAtPc_eq (w : Word) (s : State) : loadAtPc w s = s.withImem (loadAtPc w s).imem := by
  unfold loadAtPc
  split <;> rfl

/-- Where the word has been loaded, or where there is no room for it, IF reads the sentinel. -/
theorem wordAt_loadAtPc_haltWord {s : State} (hwf : Memory.wf imemWords s.imem = true) :
    wordAt (loadAtPc haltWord s) s.pc = haltWord := by
  unfold wordAt
  split
  next hlt =>
    rw [loadAtPc, if_pos hlt]
    exact (readCell_writeCell imemWords s.imem hwf _ _ _).trans (if_pos rfl)
  next => rfl

/-- The sentinel is placed before a running engine with an empty front and no stall in the coming cycle. -/
theorem placeHalt_spec (s : State) :
    let p := placeHalt s
    p.engine = .running ∧ p.idex.valid = false ∧ stalled p = false ∧ p.pc = s.pc ∧ p.imem = s.imem := by
  intro p
  simp only [p, placeHalt]
  split
  next => exact ⟨rfl, rfl, rfl, rfl, rfl⟩
  next hstall => exact ⟨rfl, rfl, Bool.eq_false_of_not_eq_true hstall, rfl, rfl⟩

/-- Settles O59: a word that acts in EX is placed decoded in ID/EX, and the sentinel where IF reads it. -/
theorem placedWordRunsNext : Obligations.PlacedWordRunsNext := by
  intro s w p
  have hp : p = placeWord w s := by rw [show p = placeWord (tableWord 16 w.toNat) s from rfl, tableWord_toNat]
  refine ⟨fun hw => ?_, fun hw hwf => ?_⟩
  · rw [placeWord, if_neg hw, loadAtPc_eq] at hp
    have hidex : p.idex = decodeIdEx (enableFor s.cfg w) w s.pc := by rw [hp]; rfl
    have hcfg : p.cfg = enableFor s.cfg w := by rw [hp]; rfl
    have hne : p.engine ≠ .halted := by rw [hp]; exact nofun
    refine ⟨hidex, ?_⟩
    rw [← hcfg] at hidex ⊢
    exact stepRunsTheDecodedInstruction p w s.pc hne hw hidex
  · rw [placeWord, if_pos hw, hw] at hp
    obtain ⟨hrun, hid, hstall, hpc, himem⟩ := placeHalt_spec (loadAtPc haltWord s)
    rw [← hp] at hrun hid hstall hpc himem
    have hspc : p.pc = s.pc := hpc.trans (by rw [loadAtPc_eq]; rfl)
    have hword : wordAt p p.pc = haltWord := by
      rw [hspc, wordAt, himem]
      exact wordAt_loadAtPc_haltWord hwf
    have hne : p.engine ≠ .halted := by simp [hrun]
    have hf := flushTaken_of_bubble hid
    have hif := fetchEffect_sentinel ((fetches_eq_true_iff p).2 ⟨hrun, hstall⟩) hword (p.cycle + 1)
    obtain ⟨t, ht⟩ := step_answers p
    refine ⟨t, ht, ?_, ?_, ?_⟩
    · rw [step_pc hne ht hf, hif, hspc]
    · rw [step_ifid hne ht hf, hif]
      rfl
    · obtain ⟨-, -, hsentinel, -⟩ := engineTransitions p t ht
      rw [hsentinel hrun hf hstall hword]
      split <;> decide

end Sys2Proof.Machine
